-- ==== Sys2Proof/Word.lean ====
section
/-! DEFINITION. The word types of the block. -/

namespace Sys2Proof

/-- A 32-bit word: the only width of a command, an event and a register (R83, R110). -/
abbrev Word := BitVec 32

/-- A byte of TXBUF, RXCAP and of an FCH record (R84). -/
abbrev Byte := BitVec 8

/-- A carrier mask: bit c is 1 when band carrier c is excluded (R150). The static notch mask is
128 bits wide (R33), wider than every band, so one width serves all bands. -/
abbrev Mask := BitVec 128

/-- A tone map: bit i selects subband i (R101). -/
abbrev ToneMap := BitVec 24

/-- One 32-bit word for each of the 128 carrier places (R52, R53). -/
abbrev CarrierWords := Vector Word 128

end Sys2Proof
end

