-- ==== Sys2Proof/Syntax.lean ====
section
/-! DEFINITION. The words of the block as syntax: one constructor of `Instr` per row of
spec/opcode_table.json, every operand at its exact width (30_encoding.md R112-R118, R136). -/

namespace Sys2Proof

/-- Bands, in code order 0 to 3 (R122). -/
inductive Band where
  | cenelecA
  | cenelecB
  | fcc
  | arib
deriving DecidableEq, Repr

/-- Modulations, in code order 0 to 3 (R123). -/
inductive Modulation where
  | robo
  | bpsk
  | qpsk
  | psk8
deriving DecidableEq, Repr

/-- Modulation schemes, codes 0 and 1 (R124). -/
inductive Scheme where
  | differential
  | coherent
deriving DecidableEq, Repr

/-- Delimiter types, in code order 0 to 3 (R125). -/
inductive Delimiter where
  | dataNoResp
  | dataResp
  | ack
  | nack
deriving DecidableEq, Repr

/-- ACK and NACK frames, as opposed to data frames (R125). -/
def Delimiter.isControl : Delimiter → Bool
  | .dataNoResp => false
  | .dataResp => false
  | .ack => true
  | .nack => true

/-- The two input ports a word can be written to (R110). -/
inductive Port where
  | cmd
  | evt
deriving DecidableEq, Repr

/-- The eight words of the block (Table 30-1). -/
inductive Instr where
  /-- INIT, R112 -/
  | init (band : Band)
  /-- TRANSMIT, R113 -/
  | transmit (mod : Modulation) (sch : Scheme) (dt : Delimiter) (pwr : BitVec 4)
      (noadapt : Bool) (imm : Bool) (len : BitVec 9)
  /-- GET_PARAM, R114 -/
  | getParam (id : BitVec 16)
  /-- SET_PARAM, R114 -/
  | setParam (id : BitVec 16)
  /-- PROCESS, R115 -/
  | process
  /-- CANCEL, R116 -/
  | cancel
  /-- EV_IRQ, R117 -/
  | evIrq (src : BitVec 9) (txok : Bool) (rxok : Bool)
  /-- EV_TICK, R118 -/
  | evTick (delta : BitVec 16)
deriving DecidableEq, Repr

/-- The port an instruction's opcode is assigned to (Table 30-1). -/
def Instr.port : Instr → Port
  | .init _ => .cmd
  | .transmit _ _ _ _ _ _ _ => .cmd
  | .getParam _ => .cmd
  | .setParam _ => .cmd
  | .process => .cmd
  | .cancel => .cmd
  | .evIrq _ _ _ => .evt
  | .evTick _ => .evt

end Sys2Proof
end

