-- ==== Sys2Proof/WellFormed.lean ====
section
/-! DEFINITION. What makes a word, and an instruction on a port, well formed. The operands of an
`Instr` are at their exact widths and every value of them is legal (R136), so an instruction by
itself has nothing to check; the port it is written to (R120), the opcode (R111) and the reserved
bits (R119) have. -/

namespace Sys2Proof

/-- One row of the opcode table: the port of Table 30-1, the mask and match of R112-R118. -/
structure OpcodeRow where
  mnemonic : String
  port : Port
  pattern : Word
  mask : Word
deriving DecidableEq, Repr

/-- The opcode table (Table 30-1, R112-R118). -/
def opcodeTable : List OpcodeRow :=
  [⟨"INIT", .cmd, 0x04000000#32, 0xFFFFFFFC#32⟩,
   ⟨"TRANSMIT", .cmd, 0x08000000#32, 0xFC007E00#32⟩,
   ⟨"GET_PARAM", .cmd, 0x0C000000#32, 0xFFFF0000#32⟩,
   ⟨"SET_PARAM", .cmd, 0x10000000#32, 0xFFFF0000#32⟩,
   ⟨"PROCESS", .cmd, 0x14000000#32, 0xFFFFFFFF#32⟩,
   ⟨"CANCEL", .cmd, 0x18000000#32, 0xFFFFFFFF#32⟩,
   ⟨"EV_IRQ", .evt, 0x80000000#32, 0xFFFCFE00#32⟩,
   ⟨"EV_TICK", .evt, 0x84000000#32, 0xFFFF0000#32⟩]

/-- The word's fixed bits are those of the row. -/
def OpcodeRow.fits (r : OpcodeRow) (w : Word) : Bool := (w &&& r.mask) == r.pattern

/-- Two rows that some word could fit at once on one port. -/
def OpcodeRow.overlaps (r q : OpcodeRow) : Bool :=
  r.port == q.port && (r.pattern &&& q.mask) == (q.pattern &&& r.mask)

/-- Check: the opcode, bits [31:26], is assigned in Table 30-1 (R111, R119). -/
def opcodeAssigned (w : Word) : Bool :=
  opcodeTable.any fun r => r.pattern.extractLsb' 26 6 == w.extractLsb' 26 6

/-- Check: the opcode is assigned to this port (R120). -/
def opcodeOnPort (p : Port) (w : Word) : Bool :=
  opcodeTable.any fun r => r.port == p && r.pattern.extractLsb' 26 6 == w.extractLsb' 26 6

/-- Check: the reserved bits of the word's opcode are all 0 (R119). -/
def reservedBitsClear (w : Word) : Bool := opcodeTable.any fun r => r.fits w

/-- A word the block accepts on the port: assigned there, reserved bits clear (R119, R120). -/
def wellFormedWord (p : Port) (w : Word) : Bool :=
  opcodeTable.any fun r => r.port == p && r.fits w

/-- The mnemonic of an instruction (Table 30-1). -/
def Instr.mnemonic : Instr → String
  | .init _ => "INIT"
  | .transmit _ _ _ _ _ _ _ => "TRANSMIT"
  | .getParam _ => "GET_PARAM"
  | .setParam _ => "SET_PARAM"
  | .process => "PROCESS"
  | .cancel => "CANCEL"
  | .evIrq _ _ _ => "EV_IRQ"
  | .evTick _ => "EV_TICK"

/-- Check: the instruction is written to the port of its opcode (R120). -/
def Instr.wellFormedOn (p : Port) (i : Instr) : Bool := i.port == p

end Sys2Proof
end

