-- ==== Sys2Proof/Decode.lean ====
section
/-! DEFINITION. The decoder of R135, total on every word of either port and refusing by name, and
the encoder, both written from R112-R118. -/

namespace Sys2Proof

/-! The codes of R122-R125, read from a field. -/

def Band.ofCode (v : BitVec 2) : Band :=
  match v.toNat with
  | 0 => .cenelecA
  | 1 => .cenelecB
  | 2 => .fcc
  | _ => .arib

def Modulation.ofCode (v : BitVec 2) : Modulation :=
  match v.toNat with
  | 0 => .robo
  | 1 => .bpsk
  | 2 => .qpsk
  | _ => .psk8

def Scheme.ofBit (b : Bool) : Scheme := if b then .coherent else .differential

def Delimiter.ofCode (v : BitVec 2) : Delimiter :=
  match v.toNat with
  | 0 => .dataNoResp
  | 1 => .dataResp
  | 2 => .ack
  | _ => .nack

/-! The codes of R122-R125, written into a field. -/

def Band.code : Band → BitVec 2
  | .cenelecA => 0#2
  | .cenelecB => 1#2
  | .fcc => 2#2
  | .arib => 3#2

def Modulation.code : Modulation → BitVec 2
  | .robo => 0#2
  | .bpsk => 1#2
  | .qpsk => 2#2
  | .psk8 => 3#2

def Scheme.bit : Scheme → Bool
  | .differential => false
  | .coherent => true

def Delimiter.code : Delimiter → BitVec 2
  | .dataNoResp => 0#2
  | .dataResp => 1#2
  | .ack => 2#2
  | .nack => 3#2

/-- Why a word is no instruction of a port. The block answers each with INVALID_OPCODE. -/
inductive Reject where
  /-- the opcode is reserved (R111, R119) -/
  | reservedOpcode
  /-- a reserved bit is set (R119) -/
  | reservedBits
  /-- the opcode belongs to the other port (R120) -/
  | wrongPort
deriving DecidableEq, Repr

/-- What the decoder answers. -/
inductive Decoded where
  | instr (i : Instr)
  | reject (r : Reject)
deriving DecidableEq, Repr

/-- The opcode, bits [31:26] (R110). -/
def opcodeOf (w : Word) : Nat := (w.extractLsb' 26 6).toNat

/-- Accept the instruction if the reserved field is 0. -/
def acceptIf (reserved : Nat) (i : Instr) : Decoded :=
  if reserved = 0 then .instr i else .reject .reservedBits

/-- `process_cmd`'s case split (R135). -/
def decodeCmd (w : Word) : Decoded :=
  match opcodeOf w with
  | 0x01 => acceptIf (w.extractLsb' 2 24).toNat (.init (.ofCode (w.extractLsb' 0 2)))
  | 0x02 =>
    acceptIf (w.extractLsb' 9 6).toNat
      (.transmit (.ofCode (w.extractLsb' 24 2)) (.ofBit (w.getLsbD 23))
        (.ofCode (w.extractLsb' 21 2)) (w.extractLsb' 17 4) (w.getLsbD 16) (w.getLsbD 15)
        (w.extractLsb' 0 9))
  | 0x03 => acceptIf (w.extractLsb' 16 10).toNat (.getParam (w.extractLsb' 0 16))
  | 0x04 => acceptIf (w.extractLsb' 16 10).toNat (.setParam (w.extractLsb' 0 16))
  | 0x05 => acceptIf (w.extractLsb' 0 26).toNat .process
  | 0x06 => acceptIf (w.extractLsb' 0 26).toNat .cancel
  | 0x20 => .reject .wrongPort
  | 0x21 => .reject .wrongPort
  | _ => .reject .reservedOpcode

/-- `process_evt`'s case split (R135). -/
def decodeEvt (w : Word) : Decoded :=
  match opcodeOf w with
  | 0x01 => .reject .wrongPort
  | 0x02 => .reject .wrongPort
  | 0x03 => .reject .wrongPort
  | 0x04 => .reject .wrongPort
  | 0x05 => .reject .wrongPort
  | 0x06 => .reject .wrongPort
  | 0x20 =>
    acceptIf ((w.extractLsb' 18 8).toNat + (w.extractLsb' 9 7).toNat)
      (.evIrq (w.extractLsb' 0 9) (w.getLsbD 16) (w.getLsbD 17))
  | 0x21 => acceptIf (w.extractLsb' 16 10).toNat (.evTick (w.extractLsb' 0 16))
  | _ => .reject .reservedOpcode

/-- Word decode on a port (R135). -/
def decode (p : Port) (w : Word) : Decoded :=
  match p with
  | .cmd => decodeCmd w
  | .evt => decodeEvt w

/-- The word of an instruction: opcode, then the operand fields from the high bit down, reserved
bits 0 (R112-R118). -/
def encode : Instr → Word
  | .init b => 0x01#6 ++ 0#24 ++ b.code
  | .transmit m s d pwr noadapt imm len =>
    0x02#6 ++ m.code ++ BitVec.ofBool s.bit ++ d.code ++ pwr ++ BitVec.ofBool noadapt ++
      BitVec.ofBool imm ++ 0#6 ++ len
  | .getParam id => 0x03#6 ++ 0#10 ++ id
  | .setParam id => 0x04#6 ++ 0#10 ++ id
  | .process => 0x05#6 ++ 0#26
  | .cancel => 0x06#6 ++ 0#26
  | .evIrq src txok rxok =>
    0x20#6 ++ 0#8 ++ BitVec.ofBool rxok ++ BitVec.ofBool txok ++ 0#7 ++ src
  | .evTick delta => 0x21#6 ++ 0#10 ++ delta

/-- The port a word's opcode belongs to: 0x20 and above are event opcodes (Table 30-1). -/
def portOfWord (w : Word) : Port := if 0x20 ≤ opcodeOf w then .evt else .cmd

/-- The word whose low `nbits` bits are those of `w`. -/
def tableWord (nbits w : Nat) : Word := BitVec.ofNat 32 (w % 2 ^ nbits)

/-- The instruction the decoder reads from a row's word, on the port of its opcode. -/
def decodeTableWord (nbits w : Nat) : Option Instr :=
  match decode (portOfWord (tableWord nbits w)) (tableWord nbits w) with
  | .instr i => some i
  | .reject _ => none

end Sys2Proof
end

