-- ==== Sys2Proof/Config.lean ====
section
/-! DEFINITION. The implementation parameters of Table 00-1 (R10): the fields with a value are
definitions, the OPEN fields are the record `Cfg`. The one configuration the machine runs with,
`Config.cfg`, has its OPEN fields made from constants without a body, so that no proof can see
their values; what Table 00-1 demands of them (R12) holds by the way they are put together
(log 3). -/

namespace Sys2Proof

/-- Impedance states, codes 0 to 2; code 3 is reserved (R126). -/
inductive ImpState where
  | high
  | low
  | vlo
deriving DecidableEq, Repr

/-- FCH layouts (Table 00-1 LAYOUT). -/
inductive FchLayout where
  | cen
  | fa
deriving DecidableEq, Repr

namespace Config

def bands : List Band := [.cenelecA, .cenelecB, .fcc, .arib]

def impStates : List ImpState := [.high, .low, .vlo]

/-- TOTAL(b): carriers in band b (PRESUMED by the spec, 93 G1; log 6). -/
def total : Band → Nat
  | .cenelecA => 36
  | .cenelecB => 16
  | .fcc => 72
  | .arib => 54

/-- FIRST(b): absolute index of band carrier 0; informative, no rule reads it (log 6). -/
def firstAbsolute : Band → Nat
  | .cenelecA => 23
  | .cenelecB => 63
  | .fcc => 33
  | .arib => 33

/-- TMBITS(b): tone-map bits used (log 6). -/
def tmBits : Band → Nat
  | .cenelecA => 6
  | .cenelecB => 4
  | .fcc => 24
  | .arib => 18

/-- SUB(b): carriers per tone-map bit, TOTAL / TMBITS. -/
def sub (b : Band) : Nat := total b / tmBits b

/-- FCHLEN(b): FCH bytes. -/
def fchLen : Band → Nat
  | .cenelecA => 5
  | .cenelecB => 5
  | .fcc => 9
  | .arib => 9

/-- LAYOUT(b). -/
def layout : Band → FchLayout
  | .cenelecA => .cen
  | .cenelecB => .cen
  | .fcc => .fa
  | .arib => .fa

/-- NFCH(b): header symbols (log 6). -/
def nfch : Band → Nat
  | .cenelecA => 13
  | .cenelecB => 13
  | .fcc => 12
  | .arib => 12

/-- TWOBLK(b): two-RS-block mode available. -/
def twoBlk : Band → Bool
  | .cenelecA => false
  | .cenelecB => false
  | .fcc => true
  | .arib => true

/-- The bands that have intermediate noise passes (R210). -/
def hasIntermediate : Band → Bool
  | .cenelecA => false
  | .cenelecB => false
  | .fcc => true
  | .arib => true

/-- RS_BLOCK: bytes of one RS block. -/
def rsBlock : Nat := 255

/-- P(m): RS parity bytes (R185). -/
def parity : Modulation → Nat
  | .robo => 7
  | .bpsk => 15
  | .qpsk => 15
  | .psk8 => 15

/-- FL_MAX: largest frame length. -/
def flMax : Nat := 511

/-- CRC5_POLY, x^5+x^2+1 (log 6). -/
def crc5Poly : BitVec 5 := 0x05#5

/-- CRC8_POLY, x^8+x^2+x+1 (log 6). -/
def crc8Poly : BitVec 8 := 0x07#8

/-- WD_MS: TX and RX watchdog, in ms. -/
def wdMs : Int := 1000

/-- NOISE_INTERVAL_RESET, in ms. -/
def noiseIntervalReset : Word := 60000#32

/-- PASS_SYMBOLS: symbols accumulated per noise pass. -/
def passSymbols : Nat := 8

/-- TXBUF_BYTES and RXCAP_BYTES. -/
def bufBytes : Nat := 512

/-- The bytes a received block's buffer holds at most (R50). -/
def rxBlockBufBytes : Nat := 512

/-- CAP_WORDS. -/
def capWords : Nat := 128

/-- Table 42-1, rows 0 to 39. -/
def defaultDbLutLow : List Nat :=
  [1, 2, 2, 2, 3, 4, 4, 6, 7, 8] ++
  [10, 13, 16, 20, 26, 32, 40, 51, 64, 80] ++
  [100, 126, 159, 200, 252, 317, 399, 502, 631, 795] ++
  [1000, 1259, 1585, 1996, 2512, 3163, 3982, 5012, 6310, 7944]

/-- Table 42-1, rows 40 to 69. -/
def defaultDbLutMid : List Nat :=
  [10000, 12590, 15849, 19953, 25119, 31623, 39811, 50119, 63096, 79433] ++
  [100000, 125893, 158490, 199527, 251189, 316228, 398108, 501188, 630958, 794329] ++
  [1000000, 1258926, 1584894, 1995263, 2511887, 3162278, 3981072, 5011873, 6309574, 7943283]

/-- Table 42-1, rows 70 to 96. -/
def defaultDbLutHigh : List Nat :=
  [10000000, 12589255, 15848932, 19952624, 25118865, 31622777, 39810718, 50118724, 63095735,
    79432824] ++
  [100000000, 125892542, 158489320, 199526232, 251188644, 316227767, 398107171, 501187234,
    630957345, 794328235] ++
  [1000000000, 1258925412, 1584893193, 1995262315, 2511886432, 3162277661, 3981071706]

/-- The default DB_LUT of R217, `ceil(10^(i/10))` for i = 0 to 96. -/
def defaultDbLut : List Nat := defaultDbLutLow ++ defaultDbLutMid ++ defaultDbLutHigh

end Config

/-- The fields of Table 00-1 that an implementation chooses: the OPEN ones, and DB_LUT, which has
a default (93 I1 to I4). `p` in the tables is a power level 0 to 15. -/
structure Cfg where
  /-- MIN_PAYLOAD -/
  minPayload : Nat
  /-- PILOTS(b, n) -/
  pilots : Band → Nat → Nat
  /-- NINT(b) -/
  nint : Band → Nat
  /-- DB_LUT[0..96] -/
  dbLut : List Nat
  /-- ABS_FLOOR -/
  absFloor : Nat
  /-- MARGIN -/
  margin : Nat
  /-- DERIV_THR -/
  derivThr : Nat
  /-- T_HL[b][p]: below it HIGH goes to LOW -/
  tHL : Band → Nat → Nat
  /-- T_LH[b][p]: above it LOW goes to HIGH -/
  tLH : Band → Nat → Nat
  /-- T_LV[b][p]: below it LOW goes to VLO -/
  tLV : Band → Nat → Nat
  /-- T_VL[b][p]: above it VLO goes to LOW -/
  tVL : Band → Nat → Nat
  /-- TARGET[b][s][p] -/
  target : Band → ImpState → Nat → Nat
  /-- TOL -/
  tol : Nat
  /-- GMIN[s] -/
  gmin : ImpState → Nat
  /-- GMAX[s] -/
  gmax : ImpState → Nat
  /-- GINIT[s] -/
  ginit : ImpState → Nat
  /-- RX_BLOCK -/
  rxBlock : Nat
  /-- RsDecode (R18): `none` is Fail, `some (out, n)` is Ok(out, n) -/
  rsDecode : Nat → List Byte → Option (List Byte × Nat)
  /-- TmResponse (R19) -/
  tmResponse : CarrierWords → Mask → Band → ToneMap

/-- The constraints of Table 00-1 (R12). That NINT(b) fits `st.noise_k`'s 8 bits is DEDUCED from
R51 (log 4). -/
abbrev Cfg.Valid (c : Cfg) : Prop :=
  (∀ b ∈ Config.bands, ∀ n, n ≤ Config.total b → c.pilots b n ≤ n) ∧
  (∀ b ∈ Config.bands, c.nint b ≤ 255 ∧ (Config.hasIntermediate b = false → c.nint b = 0)) ∧
  (c.dbLut.length = 97 ∧ c.dbLut.Pairwise (· ≤ ·) ∧ ∀ v ∈ c.dbLut, v < 2 ^ 32) ∧
  (1 ≤ c.absFloor ∧ 1 ≤ c.derivThr) ∧
  (∀ b ∈ Config.bands, ∀ p, p < 16 →
    c.tLV b p < c.tVL b p ∧ c.tVL b p ≤ c.tHL b p ∧ c.tHL b p < c.tLH b p) ∧
  (∀ s ∈ Config.impStates, c.gmin s ≤ c.ginit s ∧ c.ginit s ≤ c.gmax s ∧ c.gmax s ≤ 255) ∧
  3 ≤ c.rxBlock

namespace Config

/-! The constants without a body behind the OPEN fields (log 3, log 16). -/

opaque rawMinPayload : Nat
opaque rawPilots : Band → Nat → Nat
opaque rawNint : Band → Nat
opaque rawAbsFloor : Nat
opaque rawMargin : Nat
opaque rawDerivThr : Nat
opaque rawLV : Band → Nat → Nat
opaque rawVLabove : Band → Nat → Nat
opaque rawHLabove : Band → Nat → Nat
opaque rawLHabove : Band → Nat → Nat
opaque rawTarget : Band → ImpState → Nat → Nat
opaque rawTol : Nat
opaque rawGmin : ImpState → Nat
opaque rawGinitAbove : ImpState → Nat
opaque rawGmaxAbove : ImpState → Nat
opaque rawRxBlock : Nat
opaque rsDecode : Nat → List Byte → Option (List Byte × Nat)
opaque tmResponse : CarrierWords → Mask → Band → ToneMap

/-- GMIN of the machine's configuration, at most 255. -/
def gmin (s : ImpState) : Nat := min (rawGmin s) 255

/-- GINIT of the machine's configuration, between GMIN and 255. -/
def ginit (s : ImpState) : Nat := min (gmin s + rawGinitAbove s) 255

/-- GMAX of the machine's configuration, between GINIT and 255. -/
def gmax (s : ImpState) : Nat := min (ginit s + rawGmaxAbove s) 255

/-- T_VL of the machine's configuration, above T_LV. -/
def tVL (b : Band) (p : Nat) : Nat := rawLV b p + 1 + rawVLabove b p

/-- T_HL of the machine's configuration, at least T_VL. -/
def tHL (b : Band) (p : Nat) : Nat := tVL b p + rawHLabove b p

/-- T_LH of the machine's configuration, above T_HL. -/
def tLH (b : Band) (p : Nat) : Nat := tHL b p + 1 + rawLHabove b p

/-- The configuration the machine runs with. Every configuration that satisfies Table 00-1 and has
the default DB_LUT (log 5) is one for some values of the constants above, and each is `Valid`
whatever those values are. -/
def cfg : Cfg where
  minPayload := rawMinPayload
  pilots b n := min (rawPilots b n) n
  nint b := if hasIntermediate b then min (rawNint b) 255 else 0
  dbLut := defaultDbLut
  absFloor := rawAbsFloor + 1
  margin := rawMargin
  derivThr := rawDerivThr + 1
  tHL := tHL
  tLH := tLH
  tLV := rawLV
  tVL := tVL
  target := rawTarget
  tol := rawTol
  gmin := gmin
  gmax := gmax
  ginit := ginit
  rxBlock := rawRxBlock + 3
  rsDecode := rsDecode
  tmResponse := tmResponse

/-- The test-vector parameter set TV: every OPEN field fixed for the vectors of 95_test_vectors.md
only (R11). Its values are no claims about the hardware; the machine runs with `cfg`. TmResponse is
not exercised by the vectors and stays open. -/
def tv : Cfg where
  minPayload := 0
  pilots _ _ := 0
  nint b := if hasIntermediate b then 1 else 0
  dbLut := defaultDbLut
  absFloor := 30
  margin := 10
  derivThr := 12
  tHL _ _ := 1000
  tLH _ _ := 1400
  tLV _ _ := 500
  tVL _ _ := 700
  target _ s _ := match s with
    | .high => 1200
    | .low => 800
    | .vlo => 400
  tol := 50
  gmin _ := 16
  gmax _ := 255
  ginit s := match s with
    | .high => 128
    | .low => 160
    | .vlo => 200
  rxBlock := 4
  rsDecode _ bytes := some (bytes, 0)
  tmResponse := tmResponse

end Config

end Sys2Proof
end

