-- ==== Sys2Proof/Machine/State.lean ====
section
/-! DEFINITION. The block's state `St` (R30) as plain data, its records (R65, R66), the agents'
accesses that are its input (R88), the reasons a step can stop, and power-on reset (R440). -/

namespace Sys2Proof.Machine

/-! ## Codes and steps -/

/-- Result codes, in code order 0 to 9 (R121). -/
inductive ResultCode where
  | success
  | process
  | busyTx
  | busyRx
  | invalidLength
  | invalidTonemap
  | timeout
  | invalidParam
  | invalidOpcode
  | notInit
deriving DecidableEq, Repr

/-- States of the TX machine, in code order 0 to 10 (R43, R127). -/
inductive TxStep where
  | idle
  | preambleFirst
  | preambleLast
  | headerFirst
  | header
  | cohSync
  | payloadFirst
  | payload
  | payloadLast
  | endSymbol
  | cancelled
deriving DecidableEq, Repr

/-- States of the RX machine, in code order 0 to 9 (R48, R128). -/
inductive RxStep where
  | idle
  | peak1
  | peak2
  | headerDemod
  | cohS1
  | cohS2
  | payloadFirst
  | payloadDemod
  | waitReedSolomon
  | aborted
deriving DecidableEq, Repr

/-- PayloadDemod sub-states, in code order 0 to 3 (R49, R128). -/
inductive RxSub where
  | none
  | std
  | oneBeforeLast
  | last
deriving DecidableEq, Repr

/-- States of the Noise & Notch controller, in code order 0 to 4 (R51, R129). -/
inductive NoiseStep where
  | idle
  | adaptGain
  | firstPass
  | intermediatePass
  | secondPass
deriving DecidableEq, Repr

/-- The interrupt sources, in bit order 0 to 8 (R130). -/
inductive IrqSource where
  | linkError
  | csPeak
  | txSymbol
  | rxSync
  | rxNoPeak2
  | rxBuf
  | rxAbort
  | agcDone
  | captureDone
deriving DecidableEq, Repr

/-- The statistics counters, in index order 0 to 10 (R41). -/
inductive Stat where
  | txOk
  | txTimeout
  | txCancel
  | rxOk
  | rxBadCrc
  | rxRsErr
  | rxNoPeak2
  | rxAbort
  | rxTimeout
  | chainErr
  | phyReset
deriving DecidableEq, Repr

/-! ## TX machine -/

/-- An element of a frame's symbol sequence (R261): PRE(i), HDR(j), SYNC(i), PAY(k, j), END. -/
inductive TxSym where
  | pre (i : Nat)
  | hdr (j : Nat)
  | sync (i : Nat)
  | pay (k : Nat) (j : Nat)
  | fin
deriving DecidableEq, Repr

/-- The TxControl record (R44). -/
structure TxControl where
  mod : Modulation
  sch : Scheme
  dt : Delimiter
  pwr : BitVec 4
  noadapt : Bool
  fch : List Byte
  seq : List TxSym
  pos : Nat
  flb : Nat
  blks : List (List Byte)
  parity : Nat
  start : Word
deriving DecidableEq, Repr

/-- The confirmation waiting for PROCESS (R45). -/
structure Pending where
  code : ResultCode
  t : Word
  rms : Word
  adapt : Bool
  pwr : BitVec 4
deriving DecidableEq, Repr

/-- The TX machine: st.tx_step, st.txc, st.tx_pend (R43-R45). -/
structure TxMachine where
  step : TxStep
  ctl : Option TxControl
  pend : Option Pending
deriving DecidableEq, Repr

/-! ## RX machine -/

/-- The RxControl record (R50). `buf` holds at most 512 bytes of each block, as R50 says; `bufRest`, the
model's own, holds the bytes R317 appends to a block past them (log 9). -/
structure RxControl where
  start : Word
  rxTime : Word
  fch : List Byte
  ack : Bool
  mod : Modulation
  sch : Scheme
  tm : ToneMap
  fl : BitVec 9
  nblk : Nat
  flb : Nat
  blen : List Nat
  blk : Nat
  rem : Nat
  chunk : Nat
  buf : List (List Byte)
  bufRest : List (List Byte)
  out : List Byte
  corr : Word
  rsNext : Nat
  evmHdr : Word
  evmPay : Word
  rssi : Word
  lqi : Word
  dur : Word
deriving DecidableEq, Repr

/-- The RX machine: st.rx_step, st.rx_sub, st.rxc (R48-R50). -/
structure RxMachine where
  step : RxStep
  sub : RxSub
  ctl : Option RxControl
deriving DecidableEq, Repr

/-! ## Noise controller, ImpedanceState, globals, window registers -/

/-- The Noise & Notch controller and NoiseProfile (R51-R53). -/
structure NoiseUnit where
  step : NoiseStep
  k : BitVec 8
  acc : CarrierWords
  power : CarrierWords
  notchCarrier : BitVec 8
  notchActive : Bool
deriving DecidableEq, Repr

/-- ImpedanceState (R54). -/
structure Impedance where
  coupling : ImpState
  gain : BitVec 8
  autoDetect : Bool
  lastRms : Word
deriving DecidableEq, Repr

/-- Global configuration (R31-R35). -/
structure Globals where
  initialised : Bool
  band : Band
  timeMs : Word
  staticNotch : Mask
  legacyMode : Bool
  forceNoOutput : Bool
  noiseIntervalMs : Word
  noiseDueMs : Word
deriving DecidableEq, Repr

/-- The registers of the window, each at its stored width (R36-R38, Table 20-1). -/
structure Window where
  result : Word
  paramData : Word
  txTonemap : ToneMap
  txPdc : BitVec 8
  txTime : Word
  feRms : Word
  feEvmHdr : Word
  feEvmPay : Word
  feRssi : Word
  feLqi : Word
  feRxNbytes : BitVec 10
deriving DecidableEq, Repr

/-- The window's memory, TXBUF, RXCAP and CAPMEM (R39), as (address, byte) pairs in canonical form
(log 15). -/
abbrev Memory := List Host.Cell

/-! ## Output records -/

/-- The indication IND (R65). -/
structure Indication where
  payload : List Byte
  length : Word
  modulation : Modulation
  scheme : Scheme
  toneMap : ToneMap
  evmHeader : Word
  evmPayload : Word
  rssi : Word
  lqi : Word
  rsCorrectedErrors : Word
  rxTime : Word
  frameDuration : Word
deriving DecidableEq, Repr

/-- A record of HOST_OUT (R65). -/
inductive HostRecord where
  | confirm (result : ResultCode) (endTime : Word) (rms : Word)
  | ind (i : Indication)
deriving DecidableEq, Repr

/-- The fields of FE_TX_START (R66); `start = none` is IMM. -/
structure TxStart where
  start : Option Word
  gain : BitVec 8
  imp : ImpState
  pwr : BitVec 4
  outEn : Bool
  mod : Modulation
  sch : Scheme
  tm : ToneMap
  fch : List Byte
deriving DecidableEq, Repr

/-- What FE_RX_CAPTURE asks for, with its arguments (R66, Table 60-2). -/
inductive Capture where
  | preamble (n : Nat)
  | header (n : Nat)
  | sync (i : Nat)
  | pay (k : Nat) (n : Nat)
deriving DecidableEq, Repr

/-- A record of FE_OUT (R66); `notch = none` in FE_TX_CFG is NONE. -/
inductive FeRecord where
  | reset (band : Band)
  | txStart (a : TxStart)
  | txCfg (sym : TxSym) (notch : Option (BitVec 8))
  | txChainReset
  | txBlock (k : Nat) (bytes : List Byte) (parity : Nat)
  | txAbort
  | rxArm
  | rxCapture (what : Capture)
  | rxDone
  | captureAgc
  | capturePass (i : Nat)
  | captureAbort
  | notchSet (c : BitVec 8)
  | notchClear
deriving DecidableEq, Repr

/-! ## Inputs -/

/-- The agents of the window (R82). The timer writes on the front end's port (log 13). -/
inductive Agent where
  | host
  | frontEnd
deriving DecidableEq, Repr

/-- Access widths: 1, 2 or 4 bytes (R88). -/
inductive Width where
  | b1
  | b2
  | b4
deriving DecidableEq, Repr

/-- One access of an agent to the window (R88). -/
inductive Access where
  | read (agent : Agent) (addr : Nat) (n : Width)
  | write (agent : Agent) (addr : Nat) (n : Width) (v : Word)
deriving DecidableEq, Repr

/-! ## Stops -/

/-- Reasons the machine stops with a fault: none. The block has no exceptions and no trap, and an
outcome it lacks is a refusal (R15, R404). -/
inductive Fault where
deriving DecidableEq, Repr

/-- Reasons the model refuses. No word of the block is refused by the model. -/
inductive Refusal where
  /-- An instruction without a meaning; raised by an arm of `exec` only. Safe. -/
  | notModelled (mnemonic : String)
  /-- An access to 0x000-0x0FF that is not 32-bit and aligned; raised by `receive` (R85). Safe. -/
  | registerAccess
  /-- A misaligned access to a buffer, or an access to CAPMEM narrower than 32 bits; raised by
  `receive` (R86). Safe. -/
  | bufferAccess
  /-- A configuration that breaks Table 00-1; raised by `configure` (R12). Safe. -/
  | invalidConfig
deriving DecidableEq, Repr

/-! ## The state -/

/-- The block's state (R30). `inputs` and `readData` are the model's own (log 1, log 2). -/
structure State where
  glob : Globals
  win : Window
  mem : Memory
  irqPending : BitVec 9
  tx : TxMachine
  rx : RxMachine
  noise : NoiseUnit
  imp : Impedance
  stats : Vector Word 11
  lastLqi : Word
  hostOut : List HostRecord
  feOut : List FeRecord
  inputs : List Access
  readData : Word
deriving DecidableEq, Repr

/-- The idle TX machine. -/
def TxMachine.reset : TxMachine := { step := .idle, ctl := none, pend := none }

/-- The idle RX machine. -/
def RxMachine.reset : RxMachine := { step := .idle, sub := .none, ctl := none }

/-- The idle noise controller with an empty NoiseProfile. -/
def NoiseUnit.reset : NoiseUnit where
  step := .idle
  k := 0#8
  acc := Vector.replicate 128 0#32
  power := Vector.replicate 128 0#32
  notchCarrier := 0#8
  notchActive := false

/-- ImpedanceState's reset and INIT value (R54, R245). -/
def Impedance.reset (c : Cfg) : Impedance where
  coupling := .high
  gain := BitVec.ofNat 8 (c.ginit .high)
  autoDetect := true
  lastRms := 0#32

/-- Power-on reset (Table 70-1). -/
def State.reset : State where
  glob :=
    { initialised := false, band := .cenelecA, timeMs := 0#32, staticNotch := 0#128,
      legacyMode := false, forceNoOutput := false,
      noiseIntervalMs := Config.noiseIntervalReset, noiseDueMs := Config.noiseIntervalReset }
  win :=
    { result := 0#32, paramData := 0#32, txTonemap := 0#24, txPdc := 0#8, txTime := 0#32,
      feRms := 0#32, feEvmHdr := 0#32, feEvmPay := 0#32, feRssi := 0#32, feLqi := 0#32,
      feRxNbytes := 0#10 }
  mem := []
  irqPending := 0#9
  tx := .reset
  rx := .reset
  noise := .reset
  imp := .reset Config.cfg
  stats := Vector.replicate 11 0#32
  lastLqi := 0#32
  hostOut := []
  feOut := []
  inputs := []
  readData := 0#32

end Sys2Proof.Machine
end

