-- ==== Sys2Proof/Machine/CarrierMap.lean ====
section
/-! DEFINITION. The carrier map (40_carrier_map.md): functions of tone map and static notch mask,
without state. -/

namespace Sys2Proof.Machine

/-- `full(b) = 2^TOTAL(b) - 1` (R150). -/
def fullMask (b : Band) : Mask := BitVec.ofNat 128 (2 ^ Config.total b - 1)

/-- The number of 1 bits (R14). -/
def popcount (m : Mask) : Nat := (List.range 128).countP fun c => m.getLsbD c

/-- The mask whose bit c, for c below `n`, is `p c`. -/
def maskOf (n : Nat) (p : Nat → Bool) : Mask :=
  (List.range n).foldl (fun m c => if p c then m ||| BitVec.twoPow 128 c else m) 0#128

/-- `inactive_mask(tm)`: carrier c is inactive iff tone-map bit c div SUB(b) is 0 (R151). -/
def inactiveMask (b : Band) (tm : ToneMap) : Mask :=
  maskOf (Config.total b) fun c => !tm.getLsbD (c / Config.sub b)

/-- The combined mask `(inactive | static) & full(b)` (R152). -/
def combinedMask (b : Band) (inactive static : Mask) : Mask := (inactive ||| static) &&& fullMask b

/-- `active_carrier_count(inactive, static)` (R152). -/
def activeCarrierCount (b : Band) (inactive static : Mask) : Nat :=
  Config.total b - popcount (combinedMask b inactive static)

/-- `payload_carrier_count(tm, static, sch)` (R153). -/
def payloadCarrierCount (c : Cfg) (b : Band) (tm : ToneMap) (static : Mask) (sch : Scheme) : Nat :=
  match sch with
  | .differential => activeCarrierCount b (inactiveMask b tm) static
  | .coherent =>
    activeCarrierCount b (inactiveMask b tm) static -
      c.pilots b (activeCarrierCount b (inactiveMask b tm) static)

/-- `first_used_carrier(mask)`, 0xFF when every carrier is excluded (R154). No other rule of the
block reads it. -/
def firstUsedCarrier (b : Band) (mask : Mask) : Nat :=
  ((List.range (Config.total b)).find? fun c => !mask.getLsbD c).getD 0xFF

/-- `last_used_carrier(mask)`, 0xFF when every carrier is excluded (R154). No other rule of the
block reads it. -/
def lastUsedCarrier (b : Band) (mask : Mask) : Nat :=
  ((List.range (Config.total b)).reverse.find? fun c => !mask.getLsbD c).getD 0xFF

/-- DynamicNotchMask, derived from NoiseProfile (R161). -/
def dynamicNotchMask (n : NoiseUnit) : Mask :=
  if n.notchActive then BitVec.twoPow 128 n.notchCarrier.toNat else 0#128

/-- Tone-map bits the band does not use are set: `tm[23:TMBITS(b)] != 0` (R101, R352). -/
def reservedToneMapBits (b : Band) (tm : ToneMap) : Bool := tm >>> Config.tmBits b != 0#24

end Sys2Proof.Machine
end

