-- ==== Sys2Proof/Machine/Ops.lean ====
section
/-! DEFINITION. The named operations over the state that the meanings share: window memory,
RESULT, counters, the output logs, time comparison, PHY reinitialisation, the entry into an
interrupt handler, and the acceptance of a configuration. -/

namespace Sys2Proof.Machine

/-! ## Numbers -/

/-- `s32(a - b)`: the signed distance of two 32-bit times (R13, R32). -/
def timeDiff (a b : Word) : Int := (a - b).toInt

/-- `sat32(x) = min(x, 2^32-1)` (R14). -/
def sat32 (x : Nat) : Word := BitVec.ofNat 32 (min x (2 ^ 32 - 1))

/-- `ceil_div(a, b)` for b > 0 (R14). -/
def ceilDiv (a b : Nat) : Nat := (a + b - 1) / b

/-- A bit as the number 0 or 1. -/
def bitNat (b : Bool) : Nat := if b then 1 else 0

/-! ## Window memory -/

/-- What a byte no entry lists reads as: the buffers' reset contents, 0 (R39). -/
def Memory.unlisted : Byte := 0#8

/-- The byte at an address. -/
def Memory.read : Memory → Nat → Byte
  | [], _ => Memory.unlisted
  | (k, v) :: m, a => if k = a then v else Memory.read m a

/-- The pair in front, unless it is what an unlisted address reads as. -/
def Memory.consCell (a : Nat) (b : Byte) (m : Memory) : Memory :=
  if b = Memory.unlisted then m else (a, b) :: m

/-- Store one byte, keeping the canonical form. -/
def Memory.write : Memory → Nat → Byte → Memory
  | [], a, b => Memory.consCell a b []
  | (k, v) :: m, a, b =>
    if a < k then Memory.consCell a b ((k, v) :: m)
    else if a = k then Memory.consCell a b m
    else (k, v) :: Memory.write m a b

/-- The canonical form: addresses strictly rising, no entry equal to what an unlisted address
reads as. -/
abbrev Memory.wf (m : Memory) : Prop :=
  m.Pairwise (fun p q => p.1 < q.1) ∧ ∀ p ∈ m, p.2 ≠ Memory.unlisted

/-- The `n` bytes at a, a+1, ... -/
def Memory.readBytes (m : Memory) (a n : Nat) : List Byte :=
  (List.range n).map fun i => m.read (a + i)

/-- Store bytes at a, a+1, ... -/
def Memory.writeBytes (m : Memory) (a : Nat) : List Byte → Memory
  | [] => m
  | b :: bs => Memory.writeBytes (m.write a b) (a + 1) bs

/-- Bytes assembled little-endian, the first least significant (R83). -/
def wordOfBytes : List Byte → Word
  | [] => 0#32
  | b :: bs => b.setWidth 32 ||| (wordOfBytes bs <<< 8)

/-- The low `n` bytes of a word, least significant first (R83). -/
def bytesOfWord (n : Nat) (v : Word) : List Byte :=
  (List.range n).map fun i => v.extractLsb' (8 * i) 8

/-! ## RESULT, counters, logs -/

/-- The code of a result (Table 30-2). -/
def ResultCode.code : ResultCode → Word
  | .success => 0#32
  | .process => 1#32
  | .busyTx => 2#32
  | .busyRx => 3#32
  | .invalidLength => 4#32
  | .invalidTonemap => 5#32
  | .timeout => 6#32
  | .invalidParam => 7#32
  | .invalidOpcode => 8#32
  | .notInit => 9#32

/-- `result(code)`: write RESULT (R121). -/
def State.setResult (s : State) (r : ResultCode) : State :=
  { s with win := { s.win with result := r.code } }

/-- `emit_host(r)` (R64). -/
def State.emitHost (s : State) (r : HostRecord) : State := { s with hostOut := s.hostOut ++ [r] }

/-- `emit_fe(r)` (R64). -/
def State.emitFe (s : State) (r : FeRecord) : State := { s with feOut := s.feOut ++ [r] }

/-- The index of a counter in st.stats (R41). -/
def Stat.index : Stat → Fin 11
  | .txOk => 0
  | .txTimeout => 1
  | .txCancel => 2
  | .rxOk => 3
  | .rxBadCrc => 4
  | .rxRsErr => 5
  | .rxNoPeak2 => 6
  | .rxAbort => 7
  | .rxTimeout => 8
  | .chainErr => 9
  | .phyReset => 10

/-- Increment a counter modulo 2^32 (R41). -/
def State.bump (s : State) (i : Stat) : State :=
  { s with stats := s.stats.set i.index.val (s.stats[i.index.val] + 1#32) i.index.isLt }

/-! ## PHY reinitialisation -/

/-- `reinit(counted)` (R412): the machines idle, NoiseProfile and ImpedanceState at their INIT
value, the next capture one interval away, pending interrupts dropped, the static notch masked to
the band, FE_RESET emitted; all else is kept. -/
def State.reinit (c : Cfg) (counted : Bool) (s : State) : State :=
  let s := { s with
    tx := .reset
    rx := .reset
    noise := .reset
    imp := .reset c
    irqPending := 0#9
    glob := { s.glob with
      noiseDueMs := s.glob.timeMs + s.glob.noiseIntervalMs
      staticNotch := s.glob.staticNotch &&& fullMask s.glob.band } }
  let s := if counted then s.bump .phyReset else s
  s.emitFe (.reset s.glob.band)

/-! ## Interrupts

The block takes no exceptions (R400). What stands in their place is the dispatch step of R407. -/

/-- The sources in handling order, ascending bit number (R408). -/
def irqSources : List IrqSource :=
  [.linkError, .csPeak, .txSymbol, .rxSync, .rxNoPeak2, .rxBuf, .rxAbort, .agcDone, .captureDone]

/-- The bit position of a source (R130). -/
def IrqSource.bit : IrqSource → Nat
  | .linkError => 0
  | .csPeak => 1
  | .txSymbol => 2
  | .rxSync => 3
  | .rxNoPeak2 => 4
  | .rxBuf => 5
  | .rxAbort => 6
  | .agcDone => 7
  | .captureDone => 8

/-- The lowest pending source (R407). -/
def lowestPending (p : BitVec 9) : Option IrqSource := irqSources.find? fun q => p.getLsbD q.bit

/-- Entry into a handler: its pending bit is cleared, nothing is saved (R407, R409). -/
def State.enterHandler (s : State) (q : IrqSource) : State :=
  { s with irqPending := s.irqPending &&& ~~~(BitVec.twoPow 9 q.bit) }

/-- The dispatch loop of R407 for at most `fuel` handlers. Return from a handler is its end
(R409). -/
def irqLoop (handler : IrqSource → State → State) : Nat → State → State
  | 0, s => s
  | fuel + 1, s =>
    match lowestPending s.irqPending with
    | none => s
    | some q => irqLoop handler fuel (handler q (s.enterHandler q))

/-! ## Configuration -/

/-- The configuration is accepted before the first word, or the model refuses it (R12, R404). -/
def configure (c : Cfg) : Host.Outcome Cfg Fault Refusal :=
  if c.Valid then .next c else .refused .invalidConfig

end Sys2Proof.Machine
end

