-- ==== Sys2Proof/Machine/Fch.lean ====
section
/-! DEFINITION. The FCH encoder and decoder with CRC5 and CRC8, and the length arithmetic
(41_fch_codec.md). A bit string is a list of bits, position 0 first (R171). -/

namespace Sys2Proof.Machine

/-! ## Bit strings (R171) -/

/-- The low `w` bits of a number, most significant first. -/
def bitsOfNat (w v : Nat) : List Bool := (List.range w).map fun i => v.testBit (w - 1 - i)

/-- The number whose bits, most significant first, are these. -/
def natOfBits (bits : List Bool) : Nat := bits.foldl (fun n b => 2 * n + bitNat b) 0

/-- `put(bits, q, w, v)`. -/
def putBits (bits : List Bool) (q w v : Nat) : List Bool :=
  bits.take q ++ bitsOfNat w v ++ bits.drop (q + w)

/-- `get(bits, q, w)`. -/
def getBits (bits : List Bool) (q w : Nat) : Nat := natOfBits ((bits.drop q).take w)

/-- The bit string of a record: the most significant bit of byte 0 first. -/
def bitsOfBytes (bs : List Byte) : List Bool := bs.flatMap fun b => bitsOfNat 8 b.toNat

/-- The bytes of a bit string, eight bits a byte; a shorter rest is dropped. -/
def bytesOfBits : List Bool → List Byte
  | b0 :: b1 :: b2 :: b3 :: b4 :: b5 :: b6 :: b7 :: rest =>
    BitVec.ofNat 8 (natOfBits [b0, b1, b2, b3, b4, b5, b6, b7]) :: bytesOfBits rest
  | _ => []

/-! ## CRC (R183) -/

/-- One bit through the CRC register. -/
def crcStep {W : Nat} (poly reg : BitVec W) (x : Bool) : BitVec W :=
  if (reg.msb ^^ x) = true then (reg <<< 1) ^^^ poly else reg <<< 1

/-- `crc(bits, W, poly)`: register 0 at first, output inverted. -/
def crc {W : Nat} (poly : BitVec W) (bits : List Bool) : BitVec W :=
  ~~~(bits.foldl (crcStep poly) 0#W)

/-! ## Layouts (R173, R174) -/

/-- Where the fields of a layout stand. PDC, MOD, FL and TM begin at 0, 8, 10 and 19 in both. -/
structure FchFormat where
  nbits : Nat
  tmWidth : Nat
  dtPos : Nat
  schPos : Nat
  /-- the protected span is positions 0 to prot - 1, and the CRC stands at prot -/
  prot : Nat
  crcWidth : Nat
  poly : BitVec crcWidth
  tailPos : Nat
  tailWidth : Nat
deriving DecidableEq, Repr

/-- Table 41-1. -/
def cenFormat : FchFormat where
  nbits := 40
  tmWidth := 6
  dtPos := 25
  schPos := 27
  prot := 28
  crcWidth := 5
  poly := Config.crc5Poly
  tailPos := 33
  tailWidth := 7

/-- Table 41-2. -/
def faFormat : FchFormat where
  nbits := 72
  tmWidth := 24
  dtPos := 43
  schPos := 45
  prot := 58
  crcWidth := 8
  poly := Config.crc8Poly
  tailPos := 66
  tailWidth := 6

def pdcPos : Nat := 0
def modPos : Nat := 8
def flPos : Nat := 10
def tmPos : Nat := 19

/-- The two-RS-block flag of the FA layout (R180). -/
def rsbPos : Nat := 47

/-- The format of a layout. -/
def formatOf : FchLayout → FchFormat
  | .cen => cenFormat
  | .fa => faFormat

/-- The format of a band's FCH. -/
def fchFormat (b : Band) : FchFormat := formatOf (Config.layout b)

/-- The CRC of the protected span (R184). -/
def fchCrc (f : FchFormat) (bits : List Bool) : Nat := (crc f.poly (bits.take f.prot)).toNat

/-! ## Length arithmetic -/

/-- `bpc(m)`: bits per carrier per symbol (R185). -/
def bpc : Modulation → Nat
  | .robo => 1
  | .bpsk => 1
  | .qpsk => 2
  | .psk8 => 3

/-- `rep(m)`: repetition (R185; log 6). -/
def rep : Modulation → Nat
  | .robo => 4
  | .bpsk => 1
  | .qpsk => 1
  | .psk8 => 1

/-- `nsym(n, m, npc)`: symbols that carry n bytes (R186). -/
def nsym (n : Nat) (m : Modulation) (npc : Nat) : Nat := ceilDiv (8 * n * rep m) (npc * bpc m)

/-- `cap(f, m, npc)`: bytes that f symbols hold (R186). -/
def cap (f : Nat) (m : Modulation) (npc : Nat) : Nat := f * npc * bpc m / (8 * rep m)

/-- `maxpay(b, m)` (R187). -/
def maxpay (b : Band) (m : Modulation) : Nat :=
  (if Config.twoBlk b then 2 else 1) * (Config.rsBlock - Config.parity m)

/-- The block split of an L-byte data frame (R188). -/
def blockSplit (b : Band) (m : Modulation) (len : Nat) : List Nat :=
  if Config.twoBlk b = true ∧ len > Config.rsBlock - Config.parity m then
    [ceilDiv len 2, len / 2]
  else [len]

/-- The result of `frame_length` (R189). -/
structure FrameLength where
  fl : Nat
  flb : Nat
  blocks : List Nat
  lb : Nat
deriving DecidableEq, Repr

/-- Padded bytes per block of f symbols: `min(cap(f), RS_BLOCK) - P(m)` (R189, R190). -/
def blockBytes (f : Nat) (m : Modulation) (npc : Nat) : Nat :=
  min (cap f m npc) Config.rsBlock - Config.parity m

/-- `frame_length(L, m, npc)` (R189). -/
def frameLength (b : Band) (len : Nat) (m : Modulation) (npc : Nat) : FrameLength where
  flb := nsym ((blockSplit b m len).headD 0 + Config.parity m) m npc
  fl := nsym ((blockSplit b m len).headD 0 + Config.parity m) m npc * (blockSplit b m len).length
  blocks := blockSplit b m len
  lb := blockBytes (nsym ((blockSplit b m len).headD 0 + Config.parity m) m npc) m npc

/-- A block's data bytes followed by zeros up to `lb` bytes (R197). -/
def padBlock (lb : Nat) (bs : List Byte) : List Byte := bs ++ List.replicate (lb - bs.length) 0#8

/-! ## Encode -/

/-- The fields of a data FCH (R191). -/
structure FchFields where
  pdc : BitVec 8
  mod : Modulation
  sch : Scheme
  dt : Delimiter
  tm : ToneMap
  fl : Nat
  rsb : Bool
deriving DecidableEq, Repr

/-- RSB is written in the FA layout only (R180, R191). -/
def putRsb (l : FchLayout) (rsb : Bool) (bits : List Bool) : List Bool :=
  match l with
  | .cen => bits
  | .fa => putBits bits rsbPos 1 (bitNat rsb)

/-- The record's bits with every field but the CRC written (R191). -/
def fchFieldBits (l : FchLayout) (x : FchFields) : List Bool :=
  let f := formatOf l
  let bits := List.replicate f.nbits false
  let bits := putBits bits pdcPos 8 x.pdc.toNat
  let bits := putBits bits modPos 2 x.mod.code.toNat
  let bits := putBits bits flPos 9 x.fl
  let bits := putBits bits tmPos f.tmWidth x.tm.toNat
  let bits := putBits bits f.dtPos 2 x.dt.code.toNat
  let bits := putBits bits f.schPos 1 (bitNat x.sch.bit)
  putRsb l x.rsb bits

/-- Write the CRC over the protected span (R184). -/
def putCrc (f : FchFormat) (bits : List Bool) : List Bool :=
  putBits bits f.prot f.crcWidth (fchCrc f bits)

/-- `encode_data` (R191). -/
def encodeData (b : Band) (x : FchFields) : List Byte :=
  bytesOfBits (putCrc (fchFormat b) (fchFieldBits (Config.layout b) x))

/-- `encode_ack`: CRC recomputed, tail cleared (R192). -/
def encodeAck (b : Band) (raw : List Byte) : List Byte :=
  let f := fchFormat b
  bytesOfBits (putBits (putCrc f (bitsOfBytes raw)) f.tailPos f.tailWidth 0)

/-! ## Decode -/

/-- What a decoded header says (R193): an ACK/NACK header, or a data header. -/
inductive FchHeader where
  | control (dt : Delimiter) (pdc : BitVec 8) (mod : Modulation) (sch : Scheme)
  | data (dt : Delimiter) (pdc : BitVec 8) (mod : Modulation) (sch : Scheme) (tm : ToneMap)
      (fl : Nat) (flb : Nat) (blen : List Nat) (npc : Nat)
deriving DecidableEq, Repr

/-- RSB of a received record; CEN has none (R180, R193). -/
def getRsb (l : FchLayout) (bits : List Bool) : Nat :=
  match l with
  | .cen => 0
  | .fa => getBits bits rsbPos 1

/-- The block sizes of FL symbols, `none` when RSB is 1 and FL is odd (R193 step 6). -/
def splitSymbols (rsb fl : Nat) : Option (List Nat) :=
  if rsb = 1 then (if fl % 2 = 1 then none else some [fl / 2, fl / 2]) else some [fl]

/-- The bounds of R190 for one block of f symbols (R193 steps 7 and 8). -/
def blockInBounds (c : Cfg) (f : Nat) (m : Modulation) (npc : Nat) : Bool :=
  decide (f ≤ nsym Config.rsBlock m npc) &&
    decide (c.minPayload + Config.parity m + 1 ≤ min (cap f m npc) Config.rsBlock)

/-- Steps 4 to 9 of decode, on a data header's fields (R193). -/
def decodeDataHeader (c : Cfg) (b : Band) (static : Mask) (dt : Delimiter) (pdc : BitVec 8)
    (m : Modulation) (sch : Scheme) (fl : Nat) (tm : ToneMap) (rsb : Nat) : Option FchHeader :=
  if reservedToneMapBits b tm then none
  else
    let npc := payloadCarrierCount c b tm static sch
    if npc = 0 then none
    else
      match splitSymbols rsb fl with
      | none => none
      | some blocks =>
        if blocks.all (fun f => blockInBounds c f m npc) then
          some (.data dt pdc m sch tm fl (blocks.headD 0) (blocks.map fun f => blockBytes f m npc)
            npc)
        else none

/-- `decode(raw, static)`; `none` is Fail (R193). -/
def decodeFch (c : Cfg) (b : Band) (raw : List Byte) (static : Mask) : Option FchHeader :=
  let f := fchFormat b
  let bits := bitsOfBytes raw
  if getBits bits f.prot f.crcWidth ≠ fchCrc f bits then none
  else if getBits bits f.tailPos f.tailWidth ≠ 0 then none
  else
    let dt := Delimiter.ofCode (BitVec.ofNat 2 (getBits bits f.dtPos 2))
    let m := Modulation.ofCode (BitVec.ofNat 2 (getBits bits modPos 2))
    let sch := Scheme.ofBit (getBits bits f.schPos 1 = 1)
    let pdc := BitVec.ofNat 8 (getBits bits pdcPos 8)
    if dt.isControl then some (.control dt pdc m sch)
    else
      decodeDataHeader c b static dt pdc m sch (getBits bits flPos 9)
        (BitVec.ofNat 24 (getBits bits tmPos f.tmWidth)) (getRsb (Config.layout b) bits)

end Sys2Proof.Machine
end

