-- ==== Sys2Proof/Machine/Operands.lean ====
section
/-! DEFINITION. Where the words take their operands from besides their own fields: the buffers of
the window (R92, R93) and the parameters an id names (R131). -/

namespace Sys2Proof.Machine

/-! ## Buffers -/

def txbufBase : Nat := 0x100
def rxcapBase : Nat := 0x300
def capmemBase : Nat := 0x500

/-- `TXBUF[i .. i+n)` (R84). -/
def State.txbuf (s : State) (i n : Nat) : List Byte := s.mem.readBytes (txbufBase + i) n

/-- `RXCAP[0 .. n)` (R84). -/
def State.rxcap (s : State) (n : Nat) : List Byte := s.mem.readBytes rxcapBase n

/-- `CAPMEM[c]`, little-endian (R83). -/
def State.capmem (s : State) (c : Nat) : Word :=
  wordOfBytes (s.mem.readBytes (capmemBase + 4 * c) 4)

/-- The bytes of a payload chunk: `RXCAP[0 .. n)` with n = min(FE_RX_NBYTES, 512) (R317). -/
def State.rxChunkBytes (s : State) : List Byte :=
  s.rxcap (min s.win.feRxNbytes.toNat Config.bufBytes)

/-! ## Parameters -/

/-- The parameters of Table 30-3. -/
inductive Param where
  | staticNotch (k : Fin 4)
  | legacyMode
  | impedance
  | forceNoOutput
  | noiseInterval
  | lastRms
  | stat (i : Stat)
  | statsClear
  | lastLqi
  | tmResponse
  | notch
  | band
  | txState
  | rxState
  | noiseState
  | timeMs
  | noisePower (c : Fin 128)
  | noiseDb (c : Fin 128)
deriving DecidableEq, Repr

/-- The per-carrier ids 0x0100+c and 0x0180+c, valid for c < TOTAL(b) (R131). -/
def carrierParam (b : Band) (id : Nat) : Option Param :=
  if 0x100 ≤ id ∧ id < 0x100 + Config.total b then some (.noisePower (Fin.ofNat 128 (id - 0x100)))
  else if 0x180 ≤ id ∧ id < 0x180 + Config.total b then
    some (.noiseDb (Fin.ofNat 128 (id - 0x180)))
  else none

/-- The parameter an id names in band b; `none` for an unknown id (Table 30-3). -/
def paramOf (b : Band) (id : BitVec 16) : Option Param :=
  match id.toNat with
  | 0x00 => some (.staticNotch 0)
  | 0x01 => some (.staticNotch 1)
  | 0x02 => some (.staticNotch 2)
  | 0x03 => some (.staticNotch 3)
  | 0x10 => some .legacyMode
  | 0x11 => some .impedance
  | 0x12 => some .forceNoOutput
  | 0x13 => some .noiseInterval
  | 0x14 => some .lastRms
  | 0x20 => some (.stat .txOk)
  | 0x21 => some (.stat .txTimeout)
  | 0x22 => some (.stat .txCancel)
  | 0x23 => some (.stat .rxOk)
  | 0x24 => some (.stat .rxBadCrc)
  | 0x25 => some (.stat .rxRsErr)
  | 0x26 => some (.stat .rxNoPeak2)
  | 0x27 => some (.stat .rxAbort)
  | 0x28 => some (.stat .rxTimeout)
  | 0x29 => some (.stat .chainErr)
  | 0x2A => some (.stat .phyReset)
  | 0x2F => some .statsClear
  | 0x30 => some .lastLqi
  | 0x31 => some .tmResponse
  | 0x32 => some .notch
  | 0x33 => some .band
  | 0x34 => some .txState
  | 0x35 => some .rxState
  | 0x36 => some .noiseState
  | 0x37 => some .timeMs
  | n => carrierParam b n

/-- Word k of the static notch mask: carrier bits [32k+31:32k] (R100). -/
def notchWord (m : Mask) (k : Fin 4) : Word := m.extractLsb' (32 * k.val) 32

/-- The mask with word k replaced (R100, R360). -/
def setNotchWord (m : Mask) (k : Fin 4) (v : Word) : Mask :=
  (m &&& ~~~((0xFFFFFFFF#128) <<< (32 * k.val))) ||| (v.setWidth 128 <<< (32 * k.val))

/-- The impedance state of a 2-bit code; code 3 is reserved (R126). -/
def impOfCode (v : BitVec 2) : Option ImpState :=
  match v.toNat with
  | 0 => some .high
  | 1 => some .low
  | 2 => some .vlo
  | _ => none

end Sys2Proof.Machine
end

