-- ==== Sys2Proof/Machine/Flags.lean ====
section
/-! DEFINITION. The predicates over the machines' steps (R47, R300) and the codes and status words
that GET_PARAM shows of them (R126-R129, R358). The block has no condition codes (R57). -/

namespace Sys2Proof.Machine

/-! ## Predicates -/

/-- The pre-payload states (R47). -/
def TxStep.prePayload : TxStep → Bool
  | .preambleFirst => true
  | .preambleLast => true
  | .headerFirst => true
  | .header => true
  | .cohSync => true
  | .idle => false
  | .payloadFirst => false
  | .payload => false
  | .payloadLast => false
  | .endSymbol => false
  | .cancelled => false

/-- The payload states (R47). -/
def TxStep.inPayload : TxStep → Bool
  | .payloadFirst => true
  | .payload => true
  | .payloadLast => true
  | .endSymbol => true
  | .idle => false
  | .preambleFirst => false
  | .preambleLast => false
  | .headerFirst => false
  | .header => false
  | .cohSync => false
  | .cancelled => false

/-- A frame is on the air: a pre-payload or payload state (R44, R260). -/
def TxStep.busy (t : TxStep) : Bool := t.prePayload || t.inPayload

/-- *TX idle* (R47). -/
def State.txIdle (s : State) : Bool := s.tx.step == .idle && s.tx.pend == none

/-- The receiving states, codes 1 to 7 (R300). -/
def RxStep.receiving : RxStep → Bool
  | .peak1 => true
  | .peak2 => true
  | .headerDemod => true
  | .cohS1 => true
  | .cohS2 => true
  | .payloadFirst => true
  | .payloadDemod => true
  | .idle => false
  | .waitReedSolomon => false
  | .aborted => false

/-! ## Codes -/

/-- Table of R127. -/
def TxStep.code : TxStep → Nat
  | .idle => 0
  | .preambleFirst => 1
  | .preambleLast => 2
  | .headerFirst => 3
  | .header => 4
  | .cohSync => 5
  | .payloadFirst => 6
  | .payload => 7
  | .payloadLast => 8
  | .endSymbol => 9
  | .cancelled => 10

/-- Table of R128. -/
def RxStep.code : RxStep → Nat
  | .idle => 0
  | .peak1 => 1
  | .peak2 => 2
  | .headerDemod => 3
  | .cohS1 => 4
  | .cohS2 => 5
  | .payloadFirst => 6
  | .payloadDemod => 7
  | .waitReedSolomon => 8
  | .aborted => 9

/-- Sub-state codes of R128. -/
def RxSub.code : RxSub → Nat
  | .none => 0
  | .std => 1
  | .oneBeforeLast => 2
  | .last => 3

/-- Codes of R129. -/
def NoiseStep.code : NoiseStep → Nat
  | .idle => 0
  | .adaptGain => 1
  | .firstPass => 2
  | .intermediatePass => 3
  | .secondPass => 4

/-- Codes of R126. -/
def impCode : ImpState → Nat
  | .high => 0
  | .low => 1
  | .vlo => 2

/-! ## Status words (R358) -/

/-- `code(st.tx_step) | (st.tx_pend ≠ none) << 4` -/
def State.txStateWord (s : State) : Word :=
  BitVec.ofNat 32 (s.tx.step.code + bitNat s.tx.pend.isSome * 2 ^ 4)

/-- `st.rxc.blk` once a payload block has started, else 0 (R358). -/
def RxMachine.blkShown (r : RxMachine) : Nat :=
  match r.ctl with
  | none => 0
  | some x => x.blk

/-- `code(st.rx_step) | st.rx_sub << 4 | blk << 6` -/
def State.rxStateWord (s : State) : Word :=
  BitVec.ofNat 32 (s.rx.step.code + s.rx.sub.code * 2 ^ 4 + s.rx.blkShown * 2 ^ 6)

/-- `code(st.noise_step) | st.noise_k << 8` -/
def State.noiseStateWord (s : State) : Word :=
  BitVec.ofNat 32 (s.noise.step.code + s.noise.k.toNat * 2 ^ 8)

/-- `st.notch_carrier | st.notch_active << 8` -/
def State.notchStateWord (s : State) : Word :=
  BitVec.ofNat 32 (s.noise.notchCarrier.toNat + bitNat s.noise.notchActive * 2 ^ 8)

/-- `st.imp_state | st.auto_detect << 2 | st.gain << 8` -/
def State.impedanceWord (s : State) : Word :=
  BitVec.ofNat 32 (impCode s.imp.coupling + bitNat s.imp.autoDetect * 2 ^ 2 + s.imp.gain.toNat * 2 ^ 8)

/-- `st.band | st.initialised << 31` -/
def State.bandWord (s : State) : Word :=
  BitVec.ofNat 32 (s.glob.band.code.toNat + bitNat s.glob.initialised * 2 ^ 31)

end Sys2Proof.Machine
end

