-- ==== Sys2Proof/Machine/Noise.lean ====
section
/-! DEFINITION. Noise capture, noise-to-dB table and notch peak detector (42_noise_notch.md). -/

namespace Sys2Proof.Machine

/-! ## dB table and peak detector -/

/-- `dB(p)`: the largest i with DB_LUT[i] ≤ p, or 0 (R218). -/
def dbOf (lut : List Nat) (p : Nat) : Nat :=
  lut.zipIdx.foldl (fun best e => if e.1 ≤ p then e.2 else best) 0

/-- The in-band carriers (R219). -/
def inband (b : Band) (static : Mask) : List Nat :=
  (List.range (Config.total b)).filter fun c => !static.getLsbD c

/-- The in-band average (R219). -/
def inbandAverage (b : Band) (static : Mask) (db : Nat → Nat) : Nat :=
  ((inband b static).map db).sum / (inband b static).length

/-- `2·db[c] - db[c-d] - db[c+d]` on integers: D2 for d = 1, D3 for d = 2 (R220, R221). -/
def secondDiff (db : Nat → Nat) (d c : Nat) : Int :=
  2 * (db c : Int) - (db (c - d) : Int) - (db (c + d) : Int)

/-- The isolated spike: D2, or D3 where D2 is inconclusive (R222). -/
def isolatedSpike (c : Cfg) (b : Band) (db : Nat → Nat) (i : Nat) : Bool :=
  decide ((c.derivThr : Int) ≤ secondDiff db 1 i) ||
    (decide (2 ≤ i ∧ i + 3 ≤ Config.total b) && decide ((c.derivThr : Int) ≤ secondDiff db 2 i))

/-- A candidate (R222). -/
def isCandidate (c : Cfg) (b : Band) (static : Mask) (db : Nat → Nat) (i : Nat) : Bool :=
  !static.getLsbD i && decide (1 ≤ i ∧ i + 2 ≤ Config.total b) &&
    decide (c.absFloor ≤ db i) && decide (inbandAverage b static db + c.margin ≤ db i) &&
    isolatedSpike c b db i

/-- Of two candidates in rising order the later one wins only with a larger exceedance (R223). -/
def better (db : Nat → Nat) (best : Option Nat) (i : Nat) : Option Nat :=
  match best with
  | none => some i
  | some w => if db w < db i then some i else some w

/-- The selected notch carrier, if any (R219-R223). Exceedances differ from the dB values by one
constant, so the dB values are compared. -/
def selectNotch (c : Cfg) (b : Band) (static : Mask) (db : Nat → Nat) : Option Nat :=
  ((List.range (Config.total b)).filter (isCandidate c b static db)).foldl (better db) none

/-! ## Controller -/

/-- The dB value of carrier i, derived when read (R60). -/
def State.db (c : Cfg) (s : State) (i : Nat) : Nat :=
  dbOf c.dbLut (s.noise.power[i]?.getD 0#32).toNat

/-- `finish`'s division: the mean power per symbol over NINT + 2 passes (R216). -/
def meanPower (c : Cfg) (b : Band) (acc : Word) : Word :=
  BitVec.ofNat 32 (acc.toNat / (Config.passSymbols * (c.nint b + 2)))

/-- The NoiseProfile update (R224). -/
def State.applyNotch (s : State) (winner : Option Nat) : State :=
  match winner with
  | some w =>
    { s with noise := { s.noise with notchCarrier := BitVec.ofNat 8 w, notchActive := true } }.emitFe
      (.notchSet (BitVec.ofNat 8 w))
  | none =>
    if s.noise.notchActive then
      { s with noise := { s.noise with notchCarrier := 0#8, notchActive := false } }.emitFe
        .notchClear
    else s

/-- Capture start (R212). -/
def State.startCapture (s : State) : State :=
  { s with
    noise := { s.noise with step := .adaptGain, k := 0#8, acc := Vector.replicate 128 0#32 }
    glob := { s.glob with noiseDueMs := s.glob.timeMs + s.glob.noiseIntervalMs } }.emitFe
    .captureAgc

/-- PROCESS stage 3 (R211). -/
def State.noiseTrigger (s : State) : State :=
  if s.noise.step = .idle ∧ s.txIdle = true ∧ s.rx.step = .idle ∧
      0 ≤ timeDiff s.glob.timeMs s.glob.noiseDueMs then s.startCapture
  else s

/-- The controller goes back to Idle (R216, R225). -/
def State.stopCapture (s : State) : State :=
  { s with noise := { s.noise with step := .idle, k := 0#8 } }

/-- The abort of R225 and R226. -/
def State.abortCapture (s : State) : State :=
  if s.noise.step = .idle then s else s.stopCapture.emitFe .captureAbort

/-- AGC_DONE (R213). -/
def State.agcDone (s : State) : State :=
  if s.noise.step = .adaptGain then
    { s with noise := { s.noise with step := .firstPass } }.emitFe (.capturePass 1)
  else s

/-- The accumulation of a pass (R214). -/
def State.accumulate (s : State) : State :=
  { s with noise := { s.noise with
      acc := Vector.ofFn fun i : Fin 128 =>
        if i.val < Config.total s.glob.band then
          sat32 (s.noise.acc[i.val].toNat + (s.capmem i.val).toNat)
        else s.noise.acc[i.val] } }

/-- The accumulated power becomes the mean power per symbol; carriers outside the band keep theirs
(R216). -/
def State.storeMeans (c : Cfg) (s : State) : State :=
  { s with noise := { s.noise with
      power := Vector.ofFn fun i : Fin 128 =>
        if i.val < Config.total s.glob.band then meanPower c s.glob.band s.noise.acc[i.val]
        else s.noise.power[i.val] } }

/-- The selection on the current NoiseProfile (R216, R219-R223). -/
def State.winner (c : Cfg) (s : State) : Option Nat :=
  selectNotch c s.glob.band s.glob.staticNotch (s.db c)

/-- Finish: power, detector, NoiseProfile, back to Idle (R216). -/
def State.finishCapture (c : Cfg) (s : State) : State :=
  ((s.storeMeans c).applyNotch ((s.storeMeans c).winner c)).stopCapture

/-- Move to a pass and ask the front end for it (R215). -/
def State.enterPass (s : State) (step : NoiseStep) (k idx : Nat) : State :=
  { s with noise := { s.noise with step := step, k := BitVec.ofNat 8 k } }.emitFe (.capturePass idx)

/-- The pass sequence (R215). -/
def State.nextPass (c : Cfg) (s : State) : State :=
  match s.noise.step with
  | .idle => s
  | .adaptGain => s
  | .firstPass =>
    if 1 ≤ c.nint s.glob.band then s.enterPass .intermediatePass 1 2
    else s.enterPass .secondPass 0 (c.nint s.glob.band + 2)
  | .intermediatePass =>
    if s.noise.k.toNat < c.nint s.glob.band then
      s.enterPass .intermediatePass (s.noise.k.toNat + 1) (1 + (s.noise.k.toNat + 1))
    else s.enterPass .secondPass 0 (c.nint s.glob.band + 2)
  | .secondPass => s.finishCapture c

/-- CAPTURE_DONE (R214). -/
def State.captureDone (c : Cfg) (s : State) : State :=
  match s.noise.step with
  | .idle => s
  | .adaptGain => s
  | .firstPass => s.accumulate.nextPass c
  | .intermediatePass => s.accumulate.nextPass c
  | .secondPass => s.accumulate.nextPass c

end Sys2Proof.Machine
end

