-- ==== Sys2Proof/Machine/RxFsm.lean ====
section
/-! DEFINITION. The PHY RX state machine (45_rx_fsm.md). -/

namespace Sys2Proof.Machine

/-! ## Record and steps -/

/-- The RxControl record when CS_PEAK creates it (R301). Only `start` is written then; the other
fields hold 0 until their rule writes them (log 8). -/
def RxControl.fresh (start : Word) : RxControl where
  start := start
  rxTime := 0#32
  fch := []
  ack := false
  mod := .robo
  sch := .differential
  tm := 0#24
  fl := 0#9
  nblk := 0
  flb := 0
  blen := []
  blk := 0
  rem := 0
  chunk := 0
  buf := [[], []]
  bufRest := [[], []]
  out := []
  corr := 0#32
  rsNext := 0
  evmHdr := 0#32
  evmPay := 0#32
  rssi := 0#32
  lqi := 0#32
  dur := 0#32

/-- Enter an RX state with this record; the sub-state is 0 outside PayloadDemod (R49). -/
def State.rxEnter (s : State) (step : RxStep) (r : RxControl) : State :=
  { s with rx := { step := step, sub := .none, ctl := some r } }

/-- Back to Idle, the record destroyed (R50). -/
def State.rxIdle (s : State) : State := { s with rx := .reset }

/-- To Aborted with this counter incremented; the sub-state becomes 0 (R49, R320; log 7). -/
def State.rxToAborted (s : State) (why : Stat) : State :=
  { s with rx := { s.rx with step := .aborted, sub := .none } }.bump why

/-- The *abort action* (R320). -/
def State.rxAbortAction (s : State) : State := s.rxToAborted .rxAbort

/-! ## Detection and sync -/

/-- CS_PEAK in RX (R301, R302). -/
def State.rxArm (s : State) : State :=
  if s.rx.step = .idle then
    (s.rxEnter .peak1 (.fresh s.glob.timeMs)).emitFe .rxArm
  else s

/-- RX_SYNC in Peak1 (R303). -/
def State.rxSyncPeak1 (s : State) : State :=
  match s.rx.ctl with
  | none => s
  | some r =>
    (s.rxEnter .peak2 { r with rxTime := s.glob.timeMs }).emitFe (.rxCapture (.preamble 1))

/-- RX_SYNC (R303, R304). -/
def State.rxSync (s : State) : State :=
  match s.rx.step with
  | .idle => s
  | .peak1 => s.rxSyncPeak1
  | .peak2 => s.rxAbortAction
  | .headerDemod => s.rxAbortAction
  | .cohS1 => s.rxAbortAction
  | .cohS2 => s.rxAbortAction
  | .payloadFirst => s.rxAbortAction
  | .payloadDemod => s.rxAbortAction
  | .waitReedSolomon => s
  | .aborted => s

/-- RX_NOPEAK2 (R305, R306). -/
def State.rxNoPeak2 (s : State) : State :=
  match s.rx.step with
  | .idle => s
  | .peak1 => s.rxIdle.bump .rxNoPeak2
  | .peak2 => s.rxAbortAction
  | .headerDemod => s.rxAbortAction
  | .cohS1 => s.rxAbortAction
  | .cohS2 => s.rxAbortAction
  | .payloadFirst => s.rxAbortAction
  | .payloadDemod => s.rxAbortAction
  | .waitReedSolomon => s
  | .aborted => s

/-- RX_ABORT (R320). -/
def State.rxAbort (s : State) : State := if s.rx.step.receiving then s.rxAbortAction else s

/-! ## Chunks -/

/-- `chunk(R)` for RX_BLOCK = B (R322). -/
def chunkOf (B R : Nat) : Nat := if R ≤ B then R else if R ≤ B + 2 then R - 3 else B

/-- The bytes received of block k: `st.rxc.buf[k]` as R317 appends to it (log 9). -/
def RxControl.blockBytes (r : RxControl) (k : Nat) : List Byte :=
  r.buf.getD k [] ++ r.bufRest.getD k []

/-- The record with these bytes as the received bytes of block k: the first 512 in `buf` (R50), the
others in `bufRest` (log 9). -/
def RxControl.setBlockBytes (r : RxControl) (k : Nat) (bytes : List Byte) : RxControl :=
  { r with
    buf := r.buf.set k (bytes.take Config.rxBlockBufBytes)
    bufRest := r.bufRest.set k (bytes.drop Config.rxBlockBufBytes) }

/-- Append a chunk to the received bytes of block k (R317). -/
def RxControl.appendBlock (r : RxControl) (k : Nat) (chunk : List Byte) : RxControl :=
  r.setBlockBytes k (r.blockBytes k ++ chunk)

/-- Start block k (R316). -/
def State.startBlock (c : Cfg) (r : RxControl) (k : Nat) (s : State) : State :=
  (s.rxEnter .payloadFirst
    { r.setBlockBytes k [] with
      blk := k
      rem := r.flb
      chunk := chunkOf c.rxBlock r.flb }).emitFe
    (.rxCapture (.pay k (chunkOf c.rxBlock r.flb)))

/-- The kind of a chunk of `n` symbols out of `rem` (R319). -/
def chunkKind (B n rem : Nat) : RxSub :=
  if n = rem then .last else if rem - n ≤ B then .oneBeforeLast else .std

/-- Next chunk of the block (R319). -/
def State.nextChunk (c : Cfg) (r : RxControl) (s : State) : State :=
  { s with rx :=
      { step := .payloadDemod
        sub := chunkKind c.rxBlock (chunkOf c.rxBlock r.rem) r.rem
        ctl := some { r with chunk := chunkOf c.rxBlock r.rem } } }.emitFe
    (.rxCapture (.pay r.blk (chunkOf c.rxBlock r.rem)))

/-- End of an RS block (R318). -/
def State.endBlock (c : Cfg) (r : RxControl) (s : State) : State :=
  let r := { r with evmPay := s.win.feEvmPay, rssi := s.win.feRssi, lqi := s.win.feLqi }
  if r.blk = 0 ∧ r.nblk = 2 then s.startBlock c r 1
  else
    (s.rxEnter .waitReedSolomon { r with dur := s.glob.timeMs - r.rxTime }).emitFe .rxDone

/-- The record after a payload chunk: its bytes appended to the block, its symbols off those to come
(R317). -/
def RxControl.takeChunk (r : RxControl) (chunk : List Byte) : RxControl :=
  { r.appendBlock r.blk chunk with rem := r.rem - r.chunk }

/-- RX_BUF with a payload chunk (R317). -/
def State.rxChunk (c : Cfg) (r : RxControl) (s : State) : State :=
  let r := r.takeChunk s.rxChunkBytes
  if r.rem = 0 then s.endBlock c r else s.nextChunk c r

/-! ## Header -/

/-- ACK/NACK header (R312). -/
def State.rxControlHeader (r : RxControl) (raw : List Byte) (m : Modulation) (sch : Scheme)
    (s : State) : State :=
  s.rxEnter .waitReedSolomon
    { r with
      ack := true
      fch := raw
      mod := m
      sch := sch
      rssi := s.win.feRssi
      lqi := s.win.feLqi
      dur := s.glob.timeMs - r.rxTime }

/-- Data header (R313). -/
def State.rxDataHeader (c : Cfg) (r : RxControl) (m : Modulation) (sch : Scheme) (tm : ToneMap)
    (fl flb : Nat) (blen : List Nat) (s : State) : State :=
  let r := { r with
    ack := false
    mod := m
    sch := sch
    tm := tm
    fl := BitVec.ofNat 9 fl
    nblk := blen.length
    flb := flb
    blen := blen
    buf := [[], []]
    bufRest := [[], []]
    out := []
    corr := 0#32
    rsNext := 0 }
  match sch with
  | .coherent => (s.rxEnter .cohS1 r).emitFe (.rxCapture (.sync 1))
  | .differential => s.startBlock c r 0

/-- RX_BUF in HeaderDemod (R310, R311). -/
def State.rxHeader (c : Cfg) (r : RxControl) (s : State) : State :=
  let raw := s.rxcap (Config.fchLen s.glob.band)
  let r := { r with evmHdr := s.win.feEvmHdr }
  match decodeFch c s.glob.band raw s.glob.staticNotch with
  | none => s.rxIdle.bump .rxBadCrc
  | some (.control _ _ m sch) => s.rxControlHeader r raw m sch
  | some (.data _ _ m sch tm fl flb blen _) => s.rxDataHeader c r m sch tm fl flb blen

/-! ## RX_BUF -/

/-- RX_BUF with rxok = 1 in a receiving state (R308-R319). -/
def State.rxBuffer (c : Cfg) (r : RxControl) (s : State) : State :=
  match s.rx.step with
  | .idle => s
  | .peak1 => s.rxAbortAction
  | .peak2 =>
    (s.rxEnter .headerDemod r).emitFe (.rxCapture (.header (Config.nfch s.glob.band)))
  | .headerDemod => s.rxHeader c r
  | .cohS1 => (s.rxEnter .cohS2 r).emitFe (.rxCapture (.sync 2))
  | .cohS2 => s.startBlock c r 0
  | .payloadFirst => s.rxChunk c r
  | .payloadDemod => s.rxChunk c r
  | .waitReedSolomon => s
  | .aborted => s

/-- RX_BUF (R307). -/
def State.rxBuf (c : Cfg) (rxok : Bool) (s : State) : State :=
  if s.rx.step.receiving then
    if rxok then
      match s.rx.ctl with
      | none => s
      | some r => s.rxBuffer c r
    else s.rxToAborted .chainErr
  else s

/-! ## Deferred work (PROCESS stage 2) -/

/-- Deliver an indication: record, RX_OK, last_lqi, Idle (R325, R326). -/
def State.deliverInd (i : Indication) (s : State) : State :=
  { ((s.emitHost (.ind i)).bump .rxOk).rxIdle with lastLqi := i.lqi }

/-- The ACK/NACK indication (R326). -/
def controlIndication (b : Band) (r : RxControl) : Indication where
  payload := r.fch
  length := BitVec.ofNat 32 (Config.fchLen b)
  modulation := r.mod
  scheme := r.sch
  toneMap := 0#24
  evmHeader := r.evmHdr
  evmPayload := 0#32
  rssi := r.rssi
  lqi := r.lqi
  rsCorrectedErrors := 0#32
  rxTime := r.rxTime
  frameDuration := r.dur

/-- The data indication (R325). -/
def dataIndication (r : RxControl) : Indication where
  payload := r.out
  length := BitVec.ofNat 32 r.out.length
  modulation := r.mod
  scheme := r.sch
  toneMap := r.tm
  evmHeader := r.evmHdr
  evmPayload := r.evmPay
  rssi := r.rssi
  lqi := r.lqi
  rsCorrectedErrors := r.corr
  rxTime := r.rxTime
  frameDuration := r.dur

/-- RS failure (R324). -/
def State.rsFailure (s : State) : State := s.rxIdle.bump .rxRsErr

/-- A block was corrected to `out` with `n` errors (R323). -/
def State.rsBlockDone (r : RxControl) (out : List Byte) (n : Nat) (s : State) : State :=
  let r := { r with
    out := r.out ++ out.take (r.blen.getD r.rsNext 0)
    corr := r.corr + BitVec.ofNat 32 n
    rsNext := r.rsNext + 1 }
  if r.rsNext = r.nblk then s.deliverInd (dataIndication r)
  else s.rxEnter .waitReedSolomon r

/-- One RS block of a data frame (R323). -/
def State.rsDecodeBlock (c : Cfg) (r : RxControl) (s : State) : State :=
  match c.rsDecode r.rsNext (r.blockBytes r.rsNext) with
  | none => s.rsFailure
  | some (out, n) =>
    if out.length < r.blen.getD r.rsNext 0 then s.rsFailure else s.rsBlockDone r out n

/-- WaitReedSolomon at PROCESS (R323, R326). -/
def State.rxWait (c : Cfg) (s : State) : State :=
  match s.rx.ctl with
  | none => s
  | some r =>
    if r.ack then s.deliverInd (controlIndication s.glob.band r) else s.rsDecodeBlock c r

/-- PROCESS stage 2 (R321, R323, R326). -/
def State.rxDeferred (c : Cfg) (s : State) : State :=
  match s.rx.step with
  | .idle => s
  | .peak1 => s
  | .peak2 => s
  | .headerDemod => s
  | .cohS1 => s
  | .cohS2 => s
  | .payloadFirst => s
  | .payloadDemod => s
  | .waitReedSolomon => s.rxWait c
  | .aborted => s.rxIdle

/-! ## Watchdog -/

/-- The RX watchdog's condition (R327). -/
def State.rxWatchdogDue (s : State) : Bool :=
  s.rx.step.receiving &&
    match s.rx.ctl with
    | none => false
    | some r => decide (Config.wdMs ≤ timeDiff s.glob.timeMs r.start)

/-- The RX watchdog fires (R327). -/
def State.fireRxWatchdog (c : Cfg) (s : State) : State := (s.bump .rxTimeout).reinit c true

end Sys2Proof.Machine
end

