-- ==== Sys2Proof/Machine/TxFsm.lean ====
section
/-! DEFINITION. The PHY TX state machine (44_tx_fsm.md). -/

namespace Sys2Proof.Machine

/-! ## Symbol sequence -/

/-- `[f(1), ..., f(n)]`. -/
def numbered (n : Nat) (f : Nat → TxSym) : List TxSym := (List.range n).map fun i => f (i + 1)

/-- The preamble and header symbols that begin every frame (R261). -/
def leadSymbols (b : Band) : List TxSym := [.pre 1, .pre 2] ++ numbered (Config.nfch b) .hdr

/-- The two sync symbols of a coherent data frame (R261). -/
def syncSymbols (sch : Scheme) : List TxSym :=
  match sch with
  | .differential => []
  | .coherent => [.sync 1, .sync 2]

/-- The payload symbols of `nblk` blocks of `flb` symbols (R261). -/
def paySymbols (nblk flb : Nat) : List TxSym :=
  (List.range nblk).flatMap fun k => numbered flb (.pay k)

/-- The symbol sequence of a data frame (R261). -/
def dataSequence (b : Band) (sch : Scheme) (nblk flb : Nat) : List TxSym :=
  leadSymbols b ++ syncSymbols sch ++ paySymbols nblk flb ++ [.fin]

/-- The symbol sequence of an ACK/NACK frame (R261). -/
def controlSequence (b : Band) : List TxSym := leadSymbols b ++ [.fin]

/-- `step(sym)`: the TX state that names a symbol, for `flb` symbols per block (R262). -/
def stepOfSym (flb : Nat) : TxSym → TxStep
  | .pre i => if i = 1 then .preambleFirst else .preambleLast
  | .hdr j => if j = 1 then .headerFirst else .header
  | .sync _ => .cohSync
  | .pay _ j => if j = 1 then .payloadFirst else if j = flb then .payloadLast else .payload
  | .fin => .endSymbol

/-- The symbols that carry the dynamic notch: preamble and header (R161, R264). -/
def TxSym.carriesNotch : TxSym → Bool
  | .pre _ => true
  | .hdr _ => true
  | .sync _ => false
  | .pay _ _ => false
  | .fin => false

/-- The `notch` field of FE_TX_CFG (R264). -/
def State.notchFor (s : State) (sym : TxSym) : Option (BitVec 8) :=
  if s.noise.notchActive = true ∧ sym.carriesNotch = true then some s.noise.notchCarrier else none

/-- Emit FE_TX_CFG for a symbol (R264). -/
def State.emitTxCfg (s : State) (sym : TxSym) : State := s.emitFe (.txCfg sym (s.notchFor sym))

/-! ## End of a frame -/

/-- The frame is gone and this confirmation waits (R45). -/
def State.endFrame (s : State) (step : TxStep) (p : Pending) : State :=
  { s with tx := { step := step, ctl := none, pend := some p } }

/-- A confirmation without RMS and without adaptation (R274, R277). -/
def failedPending (code : ResultCode) (t : Word) : Pending :=
  { code := code, t := t, rms := 0#32, adapt := false, pwr := 0#4 }

/-- Collision and cancel (R277). -/
def State.cancelFrame (s : State) : State :=
  ((s.endFrame .cancelled (failedPending .busyRx s.glob.timeMs)).bump .txCancel).emitFe .txAbort

/-- Chain failure (R274). -/
def State.chainFailure (s : State) : State :=
  ((s.endFrame .idle (failedPending .timeout s.glob.timeMs)).bump .chainErr).emitFe .txAbort

/-- The END symbol has been consumed (R272). -/
def State.completeFrame (t : TxControl) (s : State) : State :=
  (s.endFrame .idle
    { code := .success, t := s.glob.timeMs, rms := s.win.feRms, adapt := !t.noadapt,
      pwr := t.pwr }).bump .txOk

/-! ## Symbol event -/

/-- The block a symbol begins: `some k` for PAY(k, 1) (R273). -/
def TxSym.firstOfBlock : TxSym → Option Nat
  | .pre _ => none
  | .hdr _ => none
  | .sync _ => none
  | .pay k j => if j = 1 then some k else none
  | .fin => none

/-- The block load before FE_TX_CFG of PAY(k, 1) (R273). -/
def State.loadBlock (t : TxControl) (k : Nat) (s : State) : State :=
  (if k = 1 then s.emitFe .txChainReset else s).emitFe (.txBlock k (t.blks.getD k []) t.parity)

/-- Move to the next symbol (R265). -/
def State.enterSymbol (t : TxControl) (nxt : TxSym) (s : State) : State :=
  { s with tx := { s.tx with
      step := stepOfSym t.flb nxt
      ctl := some { t with pos := t.pos + 1 } } }.emitTxCfg nxt

/-- The frame's next symbol is `nxt` (R265, R273, R274). -/
def State.advanceFrame (t : TxControl) (nxt : TxSym) (txok : Bool) (s : State) : State :=
  match nxt.firstOfBlock with
  | none => s.enterSymbol t nxt
  | some k => if txok then (s.loadBlock t k).enterSymbol t nxt else s.chainFailure

/-- TX_SYMBOL for a frame on the air (R265). A position outside the sequence has no meaning in the
spec and the event is ignored (log 14). -/
def State.consumeSymbol (t : TxControl) (txok : Bool) (s : State) : State :=
  match t.seq[t.pos]? with
  | none => s
  | some .fin => s.completeFrame t
  | some _ =>
    match t.seq[t.pos + 1]? with
    | none => s
    | some nxt => s.advanceFrame t nxt txok

/-- TX_SYMBOL (R265); ignored in Idle and Cancelled (R275). -/
def State.txSymbol (txok : Bool) (s : State) : State :=
  if s.tx.step.busy then
    match s.tx.ctl with
    | none => s
    | some t => s.consumeSymbol t txok
  else s

/-! ## Watchdog -/

/-- The TX watchdog's condition (R280). -/
def State.txWatchdogDue (s : State) : Bool :=
  s.tx.step.busy &&
    match s.tx.ctl with
    | none => false
    | some t => decide (Config.wdMs ≤ timeDiff s.glob.timeMs t.start)

/-- The TX watchdog fires: counted reinitialisation, TX_TIMEOUT, CONFIRM (R280). -/
def State.fireTxWatchdog (c : Cfg) (s : State) : State :=
  ((s.reinit c true).bump .txTimeout).emitHost (.confirm .timeout s.glob.timeMs 0#32)

end Sys2Proof.Machine
end

