-- ==== Sys2Proof/Machine/Events.lean ====
section
/-! DEFINITION. EV_IRQ and EV_TICK (60_exceptions.md section 2, 46_host_commands.md section 8). -/

namespace Sys2Proof.Machine

/-- CS_PEAK: ignored in a TX payload state (R278); otherwise TX, then noise, then RX (R408). -/
def State.csPeak (s : State) : State :=
  if s.tx.step.inPayload then s
  else (if s.tx.step.prePayload then s.cancelFrame else s).abortCapture.rxArm

/-- `handler[i](txok, rxok)` (R130, R407). -/
def State.handle (c : Cfg) (txok rxok : Bool) (q : IrqSource) (s : State) : State :=
  match q with
  | .linkError => s.reinit c true
  | .csPeak => s.csPeak
  | .txSymbol => s.txSymbol txok
  | .rxSync => s.rxSync
  | .rxNoPeak2 => s.rxNoPeak2
  | .rxBuf => s.rxBuf c rxok
  | .rxAbort => s.rxAbort
  | .agcDone => s.agcDone
  | .captureDone => s.captureDone c

/-- Dispatch of the sources of one word; nine handlers empty any 9-bit pending set (R404, R407;
log 19). -/
def State.dispatchIrq (c : Cfg) (src : BitVec 9) (txok rxok : Bool) (s : State) : State :=
  irqLoop (State.handle c txok rxok) 9 { s with irqPending := s.irqPending ||| src }

/-- EV_IRQ under configuration c (R407, R410). -/
def State.irqWord (c : Cfg) (src : BitVec 9) (txok rxok : Bool) (s : State) : State :=
  if s.glob.initialised = false then { s.setResult .success with irqPending := 0#9 }
  else (s.setResult .success).dispatchIrq c src txok rxok

/-- EV_IRQ (R407). -/
def execEvIrq (src : BitVec 9) (txok rxok : Bool) (s : State) : Host.Outcome State Fault Refusal :=
  .next (s.irqWord Config.cfg src txok rxok)

/-- EV_TICK (R370). -/
def State.tickWord (delta : BitVec 16) (s : State) : State :=
  { s with glob := { s.glob with timeMs := s.glob.timeMs + delta.setWidth 32 } }.setResult .success

/-- EV_TICK (R370). -/
def execEvTick (delta : BitVec 16) (s : State) : Host.Outcome State Fault Refusal :=
  .next (s.tickWord delta)

end Sys2Proof.Machine
end

