-- ==== Sys2Proof/Machine/HostCommands.lean ====
section
/-! DEFINITION. INIT, TRANSMIT and CANCEL (46_host_commands.md sections 2 to 4). -/

namespace Sys2Proof.Machine

/-! ## INIT -/

/-- INIT under configuration c (R351). -/
def State.initWord (c : Cfg) (b : Band) (s : State) : State :=
  (({ s with glob := { s.glob with band := b, initialised := true } }).reinit c false).setResult
    .success

/-- INIT (R351). -/
def execInit (b : Band) (s : State) : Host.Outcome State Fault Refusal :=
  .next (s.initWord Config.cfg b)

/-! ## TRANSMIT -/

/-- The operand fields of a TRANSMIT word (R113). -/
structure TxRequest where
  mod : Modulation
  sch : Scheme
  dt : Delimiter
  pwr : BitVec 4
  noadapt : Bool
  imm : Bool
  len : BitVec 9
deriving DecidableEq, Repr

/-- `reject(X)`: result and synchronous confirmation, nothing else (R353). -/
def State.rejectTx (x : ResultCode) (s : State) : State :=
  (s.setResult x).emitHost (.confirm x s.glob.timeMs 0#32)

/-- The payload carriers of a data frame with the window's tone map (R352). -/
def State.txCarriers (c : Cfg) (sch : Scheme) (s : State) : Nat :=
  payloadCarrierCount c s.glob.band s.win.txTonemap s.glob.staticNotch sch

/-- The frame length of a data frame with the window's tone map (R352). -/
def State.txFrameLength (c : Cfg) (q : TxRequest) (s : State) : FrameLength :=
  frameLength s.glob.band q.len.toNat q.mod (s.txCarriers c q.sch)

/-- The checks on a data frame, in order; `none` when all pass (R352). -/
def State.dataCheck (c : Cfg) (q : TxRequest) (s : State) : Option ResultCode :=
  if q.len.toNat = 0 ∨ q.len.toNat > maxpay s.glob.band q.mod then some .invalidLength
  else if reservedToneMapBits s.glob.band s.win.txTonemap then some .invalidTonemap
  else if s.txCarriers c q.sch = 0 then some .invalidTonemap
  else if (s.txFrameLength c q).fl > Config.flMax then some .invalidLength
  else none

/-- The scheduled start is in the past (R355). -/
def State.lateStart (q : TxRequest) (s : State) : Bool :=
  !q.imm && decide (timeDiff s.win.txTime s.glob.timeMs < 0)

/-- The checks that reject a frame of an initialised, TX-idle block, in order (R352). -/
def State.frameCheck (c : Cfg) (q : TxRequest) (s : State) : Option ResultCode :=
  match (if q.dt.isControl then none else s.dataCheck c q) with
  | some x => some x
  | none => if s.lateStart q then some .timeout else none

/-- The padded blocks of a data frame, cut from TXBUF (R189, R197). -/
def State.paddedBlocks (fl : FrameLength) (s : State) : List (List Byte) :=
  match fl.blocks with
  | [] => []
  | [n] => [padBlock fl.lb (s.txbuf 0 n)]
  | n :: m :: _ => [padBlock fl.lb (s.txbuf 0 n), padBlock fl.lb (s.txbuf n m)]

/-- st.txc.start: the watchdog base (R354). -/
def State.txStartTime (q : TxRequest) (s : State) : Word :=
  if q.imm then s.glob.timeMs else s.win.txTime

/-- TxControl of a data frame (R354, R191). -/
def State.dataControl (c : Cfg) (q : TxRequest) (s : State) : TxControl :=
  let fl := s.txFrameLength c q
  { mod := q.mod
    sch := q.sch
    dt := q.dt
    pwr := q.pwr
    noadapt := q.noadapt
    fch := encodeData s.glob.band
      { pdc := s.win.txPdc, mod := q.mod, sch := q.sch, dt := q.dt, tm := s.win.txTonemap,
        fl := fl.fl, rsb := decide (fl.blocks.length = 2) }
    seq := dataSequence s.glob.band q.sch fl.blocks.length fl.flb
    pos := 0
    flb := fl.flb
    blks := s.paddedBlocks fl
    parity := Config.parity q.mod
    start := s.txStartTime q }

/-- TxControl of an ACK/NACK frame (R354, R192, R283). -/
def State.controlControl (q : TxRequest) (s : State) : TxControl where
  mod := q.mod
  sch := q.sch
  dt := q.dt
  pwr := q.pwr
  noadapt := q.noadapt
  fch := encodeAck s.glob.band (s.txbuf 0 (Config.fchLen s.glob.band))
  seq := controlSequence s.glob.band
  pos := 0
  flb := 0
  blks := []
  parity := 0
  start := s.txStartTime q

/-- TxControl of an accepted frame (R354). -/
def State.frameControl (c : Cfg) (q : TxRequest) (s : State) : TxControl :=
  if q.dt.isControl then s.controlControl q else s.dataControl c q

/-- The FE_TX_START record of an accepted frame (R263). -/
def State.txStartRecord (q : TxRequest) (t : TxControl) (s : State) : TxStart where
  start := if q.imm then none else some s.win.txTime
  gain := s.imp.gain
  imp := s.imp.coupling
  pwr := q.pwr
  outEn := !s.glob.forceNoOutput
  mod := q.mod
  sch := q.sch
  tm := if q.dt.isControl then 0#24 else s.win.txTonemap
  fch := t.fch

/-- Put an accepted frame on the air (R354, R263). -/
def State.acceptFrame (c : Cfg) (q : TxRequest) (s : State) : State :=
  let t := s.frameControl c q
  let s1 := s.abortCapture
  let s2 := { s1 with tx := { s1.tx with step := .preambleFirst, ctl := some t } }
  ((s2.emitFe (.txStart (s.txStartRecord q t))).emitTxCfg (.pre 1)).setResult .process

/-- TRANSMIT under configuration c (R352). -/
def State.transmitWord (c : Cfg) (q : TxRequest) (s : State) : State :=
  if s.glob.initialised = false then s.setResult .notInit
  else if s.rx.step ≠ .idle then s.rejectTx .busyRx
  else if s.txIdle = false then s.setResult .busyTx
  else
    match s.frameCheck c q with
    | some x => s.rejectTx x
    | none => s.acceptFrame c q

/-- TRANSMIT (R352). -/
def execTransmit (mod : Modulation) (sch : Scheme) (dt : Delimiter) (pwr : BitVec 4)
    (noadapt imm : Bool) (len : BitVec 9) (s : State) : Host.Outcome State Fault Refusal :=
  .next (s.transmitWord Config.cfg
    { mod := mod, sch := sch, dt := dt, pwr := pwr, noadapt := noadapt, imm := imm, len := len })

/-! ## CANCEL -/

/-- CANCEL (R356). -/
def State.cancelWord (s : State) : State :=
  if s.glob.initialised = false then s.setResult .notInit
  else if s.tx.step.prePayload then s.cancelFrame.setResult .success
  else if s.tx.step.inPayload then s.setResult .busyTx
  else s.setResult .success

/-- CANCEL (R356). -/
def execCancel (s : State) : Host.Outcome State Fault Refusal := .next s.cancelWord

end Sys2Proof.Machine
end

