-- ==== Sys2Proof/Machine/Params.lean ====
section
/-! DEFINITION. GET_PARAM and SET_PARAM (46_host_commands.md sections 5 and 6). -/

namespace Sys2Proof.Machine

/-- The value GET_PARAM reads; `none` for the write-only parameter (R357, R358). -/
def State.paramValue (c : Cfg) (s : State) : Param → Option Word
  | .staticNotch k => some (notchWord s.glob.staticNotch k)
  | .legacyMode => some (BitVec.ofNat 32 (bitNat s.glob.legacyMode))
  | .impedance => some s.impedanceWord
  | .forceNoOutput => some (BitVec.ofNat 32 (bitNat s.glob.forceNoOutput))
  | .noiseInterval => some s.glob.noiseIntervalMs
  | .lastRms => some s.imp.lastRms
  | .stat i => some s.stats[i.index.val]
  | .statsClear => none
  | .lastLqi => some s.lastLqi
  | .tmResponse =>
    some ((c.tmResponse s.noise.power s.glob.staticNotch s.glob.band).setWidth 32)
  | .notch => some s.notchStateWord
  | .band => some s.bandWord
  | .txState => some s.txStateWord
  | .rxState => some s.rxStateWord
  | .noiseState => some s.noiseStateWord
  | .timeMs => some s.glob.timeMs
  | .noisePower i => some s.noise.power[i.val]
  | .noiseDb i => some (BitVec.ofNat 32 (s.db c i.val))

/-- The value of a readable id (R357). -/
def State.readable (c : Cfg) (id : BitVec 16) (s : State) : Option Word :=
  match paramOf s.glob.band id with
  | none => none
  | some p => s.paramValue c p

/-- GET_PARAM under configuration c (R357). -/
def State.getParamWord (c : Cfg) (id : BitVec 16) (s : State) : State :=
  match s.readable c id with
  | none => s.setResult .invalidParam
  | some v => { s with win := { s.win with paramData := v } }.setResult .success

/-- GET_PARAM (R357). -/
def execGetParam (id : BitVec 16) (s : State) : Host.Outcome State Fault Refusal :=
  .next (s.getParamWord Config.cfg id)

/-- STATIC_NOTCH_Wk (R360). -/
def State.setStaticNotch (k : Fin 4) (v : Word) (s : State) : State :=
  if s.glob.initialised = true ∧ s.rx.step ≠ .idle then s.setResult .busyRx
  else if s.glob.initialised = true ∧ s.txIdle = false then s.setResult .busyTx
  else
    { s with glob := { s.glob with
        staticNotch :=
          if s.glob.initialised then setNotchWord s.glob.staticNotch k v &&& fullMask s.glob.band
          else setNotchWord s.glob.staticNotch k v } }.setResult .success

/-- The impedance state and gain of an IMPEDANCE value, `none` when the value is invalid (R362). -/
def impedanceOverride (c : Cfg) (v : Word) : Option ImpState :=
  match impOfCode (v.extractLsb' 0 2) with
  | none => none
  | some s =>
    if (v &&& ~~~0x0000FF07#32) ≠ 0#32 ∨ (v.extractLsb' 8 8).toNat < c.gmin s ∨
        c.gmax s < (v.extractLsb' 8 8).toNat then none
    else some s

/-- IMPEDANCE (R362). -/
def State.setImpedance (c : Cfg) (v : Word) (s : State) : State :=
  if s.glob.initialised = false then s.setResult .notInit
  else
    match impedanceOverride c v with
    | none => s.setResult .invalidParam
    | some i =>
      if s.txIdle = false then s.setResult .busyTx
      else
        { s with imp := { s.imp with
            coupling := i
            autoDetect := v.getLsbD 2
            gain := v.extractLsb' 8 8 } }.setResult .success

/-- NOISE_INTERVAL_MS (R364). -/
def State.setNoiseInterval (v : Word) (s : State) : State :=
  if v = 0#32 then s.setResult .invalidParam
  else
    { s with glob := { s.glob with
        noiseIntervalMs := v
        noiseDueMs := s.glob.timeMs + v } }.setResult .success

/-- SET_PARAM of a known parameter with value v (R360-R366). -/
def State.writeParam (c : Cfg) (v : Word) (s : State) : Param → State
  | .staticNotch k => s.setStaticNotch k v
  | .legacyMode =>
    { s with glob := { s.glob with legacyMode := v.getLsbD 0 } }.setResult .success
  | .impedance => s.setImpedance c v
  | .forceNoOutput =>
    { s with glob := { s.glob with forceNoOutput := v.getLsbD 0 } }.setResult .success
  | .noiseInterval => s.setNoiseInterval v
  | .lastRms => s.setResult .invalidParam
  | .stat _ => s.setResult .invalidParam
  | .statsClear => { s with stats := Vector.replicate 11 0#32 }.setResult .success
  | .lastLqi => s.setResult .invalidParam
  | .tmResponse => s.setResult .invalidParam
  | .notch => s.setResult .invalidParam
  | .band => s.setResult .invalidParam
  | .txState => s.setResult .invalidParam
  | .rxState => s.setResult .invalidParam
  | .noiseState => s.setResult .invalidParam
  | .timeMs => s.setResult .invalidParam
  | .noisePower _ => s.setResult .invalidParam
  | .noiseDb _ => s.setResult .invalidParam

/-- SET_PARAM under configuration c: the value is PARAM_DATA (R359). -/
def State.setParamWord (c : Cfg) (id : BitVec 16) (s : State) : State :=
  match paramOf s.glob.band id with
  | none => s.setResult .invalidParam
  | some p => s.writeParam c s.win.paramData p

/-- SET_PARAM (R359). -/
def execSetParam (id : BitVec 16) (s : State) : Host.Outcome State Fault Refusal :=
  .next (s.setParamWord Config.cfg id)

end Sys2Proof.Machine
end

