-- ==== Sys2Proof/Machine/Gain.lean ====
section
/-! DEFINITION. The gain/impedance hysteresis controller (43_gain_impedance.md). -/

namespace Sys2Proof.Machine

/-- The hysteresis transition of R241, taken only under auto-detect. -/
def nextImp (c : Cfg) (b : Band) (s : ImpState) (p rms : Nat) (auto : Bool) : ImpState :=
  if auto = false then s
  else
    match s with
    | .high => if rms < c.tHL b p then .low else .high
    | .low =>
      if c.tLH b p < rms then .high
      else if rms < c.tLV b p then .vlo
      else .low
    | .vlo => if c.tVL b p < rms then .low else .vlo

/-- Gain tracking (R243). -/
def trackGain (c : Cfg) (b : Band) (s : ImpState) (p rms g : Nat) : Nat :=
  if c.target b s p + c.tol < rms then max (g - 1) (c.gmin s)
  else if rms + c.tol < c.target b s p then min (g + 1) (c.gmax s)
  else g

/-- `Gain(s, p, rms, g, auto)` (R240-R243). -/
def gainControl (c : Cfg) (b : Band) (s : ImpState) (p rms g : Nat) (auto : Bool) :
    ImpState × Nat :=
  if nextImp c b s p rms auto = s then (s, trackGain c b s p rms g)
  else (nextImp c b s p rms auto, c.ginit (nextImp c b s p rms auto))

/-- The controller's run on a delivered confirmation (R244). -/
def State.runGain (c : Cfg) (p : Pending) (s : State) : State :=
  let r := gainControl c s.glob.band s.imp.coupling p.pwr.toNat p.rms.toNat s.imp.gain.toNat
    s.imp.autoDetect
  { s with imp := { s.imp with
      coupling := r.1
      gain := BitVec.ofNat 8 r.2
      lastRms := p.rms } }

end Sys2Proof.Machine
end

