-- ==== Sys2Proof/Machine/Process.lean ====
section
/-! DEFINITION. PROCESS (46_host_commands.md section 7). -/

namespace Sys2Proof.Machine

/-- The gain controller runs for a SUCCESS confirmation with adapt = 1 (R244, R368). -/
def State.adaptGain (c : Cfg) (p : Pending) (s : State) : State :=
  if p.code = .success ∧ p.adapt = true then s.runGain c p else s

/-- Delivery of a pending confirmation (R368). -/
def State.deliver (c : Cfg) (p : Pending) (s : State) : State :=
  let s := (s.adaptGain c p).emitHost (.confirm p.code p.t p.rms)
  { s with tx := { s.tx with
      pend := none
      step := if s.tx.step = .cancelled then .idle else s.tx.step } }

/-- Stage 1 (R368). -/
def State.deliverConfirm (c : Cfg) (s : State) : State :=
  match s.tx.pend with
  | none => s
  | some p => s.deliver c p

/-- Stage 4: the TX watchdog, else the RX watchdog (R367). -/
def State.watchdogs (c : Cfg) (s : State) : State :=
  if s.txWatchdogDue then s.fireTxWatchdog c
  else if s.rxWatchdogDue then s.fireRxWatchdog c
  else s

/-- The four stages in order (R367). -/
def State.processStages (c : Cfg) (s : State) : State :=
  (((s.deliverConfirm c).rxDeferred c).noiseTrigger).watchdogs c

/-- PROCESS's RESULT (R369). -/
def State.processResult (s : State) : ResultCode :=
  if s.rx.step = .waitReedSolomon then .process else .success

/-- PROCESS under configuration c (R367). -/
def State.processWord (c : Cfg) (s : State) : State :=
  if s.glob.initialised = false then s.setResult .notInit
  else (s.processStages c).setResult (s.processStages c).processResult

/-- PROCESS (R367). -/
def execProcess (s : State) : Host.Outcome State Fault Refusal :=
  .next (s.processWord Config.cfg)

end Sys2Proof.Machine
end

