-- ==== Sys2Proof/Machine/Dispatch.lean ====
section
/-! DEFINITION. The meaning of each word: one arm per constructor of `Instr`. -/

namespace Sys2Proof.Machine

def exec (i : Instr) (s : State) : Host.Outcome State Fault Refusal :=
  match i with
  | .init band => Sys2Proof.Machine.execInit band s
  | .transmit mod sch dt pwr noadapt imm len => Sys2Proof.Machine.execTransmit mod sch dt pwr noadapt imm len s
  | .getParam id => Sys2Proof.Machine.execGetParam id s
  | .setParam id => Sys2Proof.Machine.execSetParam id s
  | .process => Sys2Proof.Machine.execProcess s
  | .cancel => Sys2Proof.Machine.execCancel s
  | .evIrq src txok rxok => Sys2Proof.Machine.execEvIrq src txok rxok s
  | .evTick delta => Sys2Proof.Machine.execEvTick delta s

end Sys2Proof.Machine
end

