-- ==== Sys2Proof/Machine/Window.lean ====
section
/-! DEFINITION. The register window: its map (Table 20-1), the agents' rights (R82), widths and
alignment (R85, R86), and the data part of reads and writes (R88). -/

namespace Sys2Proof.Machine

/-- The entries of Table 20-1; `reserved` is every other address of the window (R89). -/
inductive Region where
  | cmd
  | result
  | paramData
  | evt
  | txTonemap
  | txPdc
  | txTime
  | feRms
  | feEvmHdr
  | feEvmPay
  | feRssi
  | feLqi
  | feRxNbytes
  | txbuf
  | rxcap
  | capmem
  | reserved
deriving DecidableEq, Repr

/-- The register at a register address (Table 20-1). -/
def registerAt (a : Nat) : Region :=
  match a with
  | 0x000 => .cmd
  | 0x004 => .result
  | 0x008 => .paramData
  | 0x00C => .evt
  | 0x010 => .txTonemap
  | 0x014 => .txPdc
  | 0x018 => .txTime
  | 0x020 => .feRms
  | 0x024 => .feEvmHdr
  | 0x028 => .feEvmPay
  | 0x02C => .feRssi
  | 0x030 => .feLqi
  | 0x034 => .feRxNbytes
  | _ => .reserved

/-- The entry of Table 20-1 an address lies in. An address in no entry is reserved (R81), one past
0x7FF too (log 10). -/
def regionOf (a : Nat) : Region :=
  if a < 0x100 then registerAt a
  else if a < 0x300 then .txbuf
  else if a < 0x500 then .rxcap
  else if a < 0x700 then .capmem
  else .reserved

/-- The bytes of an access width. -/
def Width.bytes : Width → Nat
  | .b1 => 1
  | .b2 => 2
  | .b4 => 4

/-- Read rights (Table 20-1, R82). -/
def canRead : Agent → Region → Bool
  | .host, .cmd => false
  | .host, .result => true
  | .host, .paramData => true
  | .host, .evt => false
  | .host, .txTonemap => true
  | .host, .txPdc => true
  | .host, .txTime => true
  | .host, .feRms => true
  | .host, .feEvmHdr => true
  | .host, .feEvmPay => true
  | .host, .feRssi => true
  | .host, .feLqi => true
  | .host, .feRxNbytes => true
  | .host, .txbuf => true
  | .host, .rxcap => true
  | .host, .capmem => true
  | .host, .reserved => false
  | .frontEnd, .cmd => false
  | .frontEnd, .result => true
  | .frontEnd, .paramData => false
  | .frontEnd, .evt => false
  | .frontEnd, .txTonemap => false
  | .frontEnd, .txPdc => false
  | .frontEnd, .txTime => false
  | .frontEnd, .feRms => true
  | .frontEnd, .feEvmHdr => true
  | .frontEnd, .feEvmPay => true
  | .frontEnd, .feRssi => true
  | .frontEnd, .feLqi => true
  | .frontEnd, .feRxNbytes => true
  | .frontEnd, .txbuf => true
  | .frontEnd, .rxcap => true
  | .frontEnd, .capmem => true
  | .frontEnd, .reserved => false

/-- Write rights (Table 20-1, R82). -/
def canWrite : Agent → Region → Bool
  | .host, .cmd => true
  | .host, .result => false
  | .host, .paramData => true
  | .host, .evt => false
  | .host, .txTonemap => true
  | .host, .txPdc => true
  | .host, .txTime => true
  | .host, .feRms => false
  | .host, .feEvmHdr => false
  | .host, .feEvmPay => false
  | .host, .feRssi => false
  | .host, .feLqi => false
  | .host, .feRxNbytes => false
  | .host, .txbuf => true
  | .host, .rxcap => false
  | .host, .capmem => false
  | .host, .reserved => false
  | .frontEnd, .cmd => false
  | .frontEnd, .result => false
  | .frontEnd, .paramData => false
  | .frontEnd, .evt => true
  | .frontEnd, .txTonemap => false
  | .frontEnd, .txPdc => false
  | .frontEnd, .txTime => false
  | .frontEnd, .feRms => true
  | .frontEnd, .feEvmHdr => true
  | .frontEnd, .feEvmPay => true
  | .frontEnd, .feRssi => true
  | .frontEnd, .feLqi => true
  | .frontEnd, .feRxNbytes => true
  | .frontEnd, .txbuf => false
  | .frontEnd, .rxcap => true
  | .frontEnd, .capmem => true
  | .frontEnd, .reserved => false

/-- Why the model refuses an access, `none` when it is allowed: its width or alignment is illegal
(R85, R86). The addresses from 0x700 on are in neither rule and allow every access (log 10,
log 11). -/
def accessStop (a : Nat) (n : Width) : Option Refusal :=
  if a < 0x100 then
    if n = .b4 ∧ a % 4 = 0 then none else some .registerAccess
  else if a < 0x500 then
    if a % n.bytes = 0 then none else some .bufferAccess
  else if a < 0x700 then
    if n = .b4 ∧ a % 4 = 0 then none else some .bufferAccess
  else none

/-- The value an allowed access with the right reads (R88): a register at its stored width, or the
bytes assembled little-endian. CMD, EVT and reserved addresses read 0 (R81, R89). -/
def State.windowValue (s : State) (a : Nat) (n : Width) : Word :=
  match regionOf a with
  | .cmd => 0#32
  | .result => s.win.result
  | .paramData => s.win.paramData
  | .evt => 0#32
  | .txTonemap => s.win.txTonemap.setWidth 32
  | .txPdc => s.win.txPdc.setWidth 32
  | .txTime => s.win.txTime
  | .feRms => s.win.feRms
  | .feEvmHdr => s.win.feEvmHdr
  | .feEvmPay => s.win.feEvmPay
  | .feRssi => s.win.feRssi
  | .feLqi => s.win.feLqi
  | .feRxNbytes => s.win.feRxNbytes.setWidth 32
  | .txbuf => wordOfBytes (s.mem.readBytes a n.bytes)
  | .rxcap => wordOfBytes (s.mem.readBytes a n.bytes)
  | .capmem => wordOfBytes (s.mem.readBytes a n.bytes)
  | .reserved => 0#32

/-- The value an agent's read returns: 0 without the right (R82, R88). -/
def State.readValue (s : State) (g : Agent) (a : Nat) (n : Width) : Word :=
  if canRead g (regionOf a) then s.windowValue a n else 0#32

/-- Store bytes of a buffer (R88; the low bytes of the value, log 20). -/
def State.storeBytes (s : State) (a : Nat) (n : Width) (v : Word) : State :=
  { s with mem := s.mem.writeBytes a (bytesOfWord n.bytes v) }

/-- Store data into the window, truncated to the stored width (R88). RESULT is not writable, and a
write to CMD or EVT is a word, not data. -/
def State.storeData (s : State) (a : Nat) (n : Width) (v : Word) : State :=
  match regionOf a with
  | .cmd => s
  | .result => s
  | .paramData => { s with win := { s.win with paramData := v } }
  | .evt => s
  | .txTonemap => { s with win := { s.win with txTonemap := v.setWidth 24 } }
  | .txPdc => { s with win := { s.win with txPdc := v.setWidth 8 } }
  | .txTime => { s with win := { s.win with txTime := v } }
  | .feRms => { s with win := { s.win with feRms := v } }
  | .feEvmHdr => { s with win := { s.win with feEvmHdr := v } }
  | .feEvmPay => { s with win := { s.win with feEvmPay := v } }
  | .feRssi => { s with win := { s.win with feRssi := v } }
  | .feLqi => { s with win := { s.win with feLqi := v } }
  | .feRxNbytes => { s with win := { s.win with feRxNbytes := v.setWidth 10 } }
  | .txbuf => s.storeBytes a n v
  | .rxcap => s.storeBytes a n v
  | .capmem => s.storeBytes a n v
  | .reserved => s

end Sys2Proof.Machine
end

