-- ==== Sys2Proof/Machine/Bus.lean ====
section
/-! DEFINITION. What the block does with one access of an agent (R88): a read, a data write, or a
word written to CMD or EVT, which it decodes and runs (R135). -/

namespace Sys2Proof.Machine

/-- `process_cmd(w)` and `process_evt(w)`: run the instruction the word is, or leave INVALID_OPCODE
in RESULT and change nothing else (R119, R120, R135). -/
def processWordOn (p : Port) (w : Word) (s : State) : Host.Outcome State Fault Refusal :=
  match decode p w with
  | .instr i => exec i s
  | .reject _ => .next (s.setResult .invalidOpcode)

/-- The port a write with the right addresses, `none` for data (R88). -/
def portAt (a : Nat) : Option Port :=
  match registerAt a with
  | .cmd => some .cmd
  | .evt => some .evt
  | .result => none
  | .paramData => none
  | .txTonemap => none
  | .txPdc => none
  | .txTime => none
  | .feRms => none
  | .feEvmHdr => none
  | .feEvmPay => none
  | .feRssi => none
  | .feLqi => none
  | .feRxNbytes => none
  | .txbuf => none
  | .rxcap => none
  | .capmem => none
  | .reserved => none

/-- `MemWrite(agent, a, n, v)` of an allowed access (R88): without the right nothing happens. -/
def memWrite (g : Agent) (a : Nat) (n : Width) (v : Word) (s : State) :
    Host.Outcome State Fault Refusal :=
  if canWrite g (regionOf a) then
    match portAt a with
    | some p => processWordOn p v s
    | none => .next (s.storeData a n v)
  else .next s

/-- `MemRead(agent, a, n)` of an allowed access (R88): the value goes to the agent (log 2). -/
def memRead (g : Agent) (a : Nat) (n : Width) (s : State) : Host.Outcome State Fault Refusal :=
  .next { s with readData := s.readValue g a n }

/-- The block receives one access (R88). -/
def receive (x : Access) (s : State) : Host.Outcome State Fault Refusal :=
  match x with
  | .read g a n =>
    match accessStop a n with
    | some r => .refused r
    | none => memRead g a n s
  | .write g a n v =>
    match accessStop a n with
    | some r => .refused r
    | none => memWrite g a n v s

/-- The agent that owns a port (Table 20-1). -/
def portAgent : Port → Agent
  | .cmd => .host
  | .evt => .frontEnd

/-- The address of a port (R110). -/
def portAddr : Port → Nat
  | .cmd => 0x000
  | .evt => 0x00C

/-- The access that writes a word to a port (R110). -/
def wordWrite (p : Port) (w : Word) : Access := .write (portAgent p) (portAddr p) .b4 w

end Sys2Proof.Machine
end

