-- ==== Sys2Proof/Machine/Step.lean ====
section
/-! DEFINITION. One step of the block: it receives the oldest access that waits (R91, R94). -/

namespace Sys2Proof.Machine

/-- One step. With no access waiting the block waits and nothing changes (R67, R90; log 1). -/
def step (s : State) : Host.Outcome State Fault Refusal :=
  match s.inputs with
  | [] => .next s
  | x :: rest => receive x { s with inputs := rest }

/-- The state in which the next access the block receives writes this word to the port of its
opcode (log 1). -/
def State.withFetchWord (s : State) (nbits w : Nat) : State :=
  { s with inputs := wordWrite (portOfWord (tableWord nbits w)) (tableWord nbits w) :: s.inputs }

end Sys2Proof.Machine
end

