-- ==== Sys2Proof/Safety.lean ====
section
/-! DEFINITION. What counts as a good state and a good run, in the terms the statements use. -/

namespace Sys2Proof.Machine

/-! ## Invariants of the spec -/

/-- The invariants (a) to (g) of R61, in its order. -/
abbrev State.Consistent (s : State) : Prop :=
  (s.tx.ctl.isSome = true ↔ s.tx.step ≠ .idle ∧ s.tx.step ≠ .cancelled) ∧
  (s.rx.ctl.isSome = true ↔ s.rx.step ≠ .idle) ∧
  (s.tx.step = .cancelled → s.tx.pend ≠ none) ∧
  (s.tx.step.busy = true → s.rx.step = .idle ∧ s.noise.step = .idle) ∧
  (s.noise.step ≠ .idle → s.txIdle = true ∧ s.rx.step = .idle) ∧
  s.irqPending = 0#9 ∧
  (s.glob.initialised = false →
    s.tx.step = .idle ∧ s.rx.step = .idle ∧ s.noise.step = .idle)

/-- A frame on the air is at a symbol of its sequence, and st.tx_step names that symbol (R46,
R262). -/
abbrev State.TxTracksSymbol (s : State) : Prop :=
  ∀ t ∈ s.tx.ctl, ∃ sym ∈ t.seq[t.pos]?, s.tx.step = stepOfSym t.flb sym

/-- st.rx_sub is 0 outside PayloadDemod and one of Std, OneBeforeLast, Last in it (R49). -/
abbrev State.SubNamesChunk (s : State) : Prop := s.rx.sub ≠ .none ↔ s.rx.step = .payloadDemod

/-- The static notch has no bit at or above TOTAL once the block is initialised (R33). -/
abbrev State.NotchInBand (s : State) : Prop :=
  s.glob.initialised = true → s.glob.staticNotch &&& fullMask s.glob.band = s.glob.staticNotch

/-- st.noise_interval_ms is never 0 (R35). -/
abbrev State.IntervalNonzero (s : State) : Prop := s.glob.noiseIntervalMs ≠ 0#32

/-- The gain step is within the bounds of its impedance state (R243, R362). -/
abbrev State.GainInBounds (c : Cfg) (s : State) : Prop :=
  c.gmin s.imp.coupling ≤ s.imp.gain.toNat ∧ s.imp.gain.toNat ≤ c.gmax s.imp.coupling

/-- The confirmation slot is empty while a frame is on the air: acceptance needs TX idle (R352,
R354), and a frame leaves the air with the confirmation it puts there (R45). -/
abbrev State.SlotEmptyOnAir (s : State) : Prop := s.tx.step.busy = true → s.tx.pend = none

/-- A reception has two block buffers of at most 512 bytes each (R50), and a place for what R317
appends to a block past them (log 9). -/
abbrev State.BuffersBounded (s : State) : Prop :=
  ∀ r ∈ s.rx.ctl, r.buf.length = 2 ∧ r.bufRest.length = 2 ∧ ∀ bytes ∈ r.buf, bytes.length ≤ 512

/-- st.rxc.blk is 0 unless block 1 of two has started (R50, R316, R358): an ACK/NACK reception has
no blocks and waits in WaitReedSolomon (R312), and block 1 starts in a payload state of a frame of
two blocks (R318). -/
abbrev State.BlockNumbered (s : State) : Prop :=
  ∀ r ∈ s.rx.ctl,
    (r.ack = true → s.rx.step = .waitReedSolomon ∧ r.blk = 0) ∧
    (r.blk ≠ 0 → r.blk = 1 ∧ r.nblk = 2 ∧
      s.rx.step ∈ [.payloadFirst, .payloadDemod, .waitReedSolomon, .aborted])

/-- The window's memory is in canonical form and lists addresses of the buffers only (log 15). -/
abbrev State.MemoryInForm (s : State) : Prop :=
  s.mem.wf ∧ ∀ p ∈ s.mem, 0x100 ≤ p.1 ∧ p.1 < 0x700

/-- Quiescent (R67). -/
abbrev State.Quiescent (s : State) : Prop :=
  s.tx.step = .idle ∧ s.tx.pend = none ∧ s.rx.step = .idle ∧ s.noise.step = .idle

/-! ## Shapes that many results share -/

/-- The state with this code in RESULT and nothing else changed (R121). -/
abbrev State.withResult (s : State) (v : Word) : State :=
  { s with win := { s.win with result := v } }

/-- What PHY reinitialisation leaves, counter apart, written out from the text of R412. -/
abbrev State.freshPhy (c : Cfg) (s : State) : State :=
  { s with
    tx := { step := .idle, ctl := none, pend := none }
    rx := { step := .idle, sub := .none, ctl := none }
    noise :=
      { step := .idle, k := 0#8, acc := Vector.replicate 128 0#32,
        power := Vector.replicate 128 0#32, notchCarrier := 0#8, notchActive := false }
    imp :=
      { coupling := .high, gain := BitVec.ofNat 8 (c.ginit .high), autoDetect := true,
        lastRms := 0#32 }
    irqPending := 0#9
    glob := { s.glob with
      noiseDueMs := s.glob.timeMs + s.glob.noiseIntervalMs
      staticNotch := s.glob.staticNotch &&& fullMask s.glob.band }
    feOut := s.feOut ++ [.reset s.glob.band] }

/-! ## Runs of words -/

/-- Run instructions one after another, as when no other word is processed between them. -/
def execAll : List Instr → State → Host.Outcome State Fault Refusal
  | [], s => .next s
  | i :: rest, s =>
    match exec i s with
    | .next t => execAll rest t
    | .fault f => .fault f
    | .refused r => .refused r

/-- The EV_IRQ word that reports one source with both chains ready (R117, R130). -/
def irq (q : IrqSource) : Instr := .evIrq (BitVec.twoPow 9 q.bit) true true

/-- The chunks a block of `n` symbols is received in, by R322 again and again; at most `fuel` of
them. -/
def chunkSchedule (B : Nat) : Nat → Nat → List Nat
  | 0, _ => []
  | _ + 1, 0 => []
  | fuel + 1, n + 1 => chunkOf B (n + 1) :: chunkSchedule B fuel (n + 1 - chunkOf B (n + 1))

/-! ## FCH records -/

/-- The bit of a record at position p: bit 7 - p mod 8 of byte p div 8 (R171). -/
def recordBit (raw : List Byte) (p : Nat) : Bool := (raw.getD (p / 8) 0#8).getLsbD (7 - p % 8)

/-- `get(bits, q, w)`: the field of width w at position q, its most significant bit at q (R171). -/
def recordField (raw : List Byte) (q w : Nat) : Nat :=
  ((List.range w).map fun i => (recordBit raw (q + i)).toNat * 2 ^ (w - 1 - i)).sum

/-- The CRC of R183 over positions 0 to n - 1 of a record. -/
def recordCrc {W : Nat} (poly : BitVec W) (raw : List Byte) (n : Nat) : Nat :=
  let next := fun (reg : BitVec W) (p : Nat) =>
    if (reg.msb ^^ recordBit raw p) = true then (reg <<< 1) ^^^ poly else reg <<< 1
  (~~~((List.range n).foldl next 0#W)).toNat

/-- A record carries the CRC of its protected span and a zero tail (R184, R182; Tables 41-1 and
41-2). -/
abbrev RecordSealed (b : Band) (raw : List Byte) : Prop :=
  match Config.layout b with
  | .cen =>
    recordField raw 28 5 = recordCrc 0x05#5 raw 28 ∧ recordField raw 33 7 = 0
  | .fa =>
    recordField raw 58 8 = recordCrc 0x07#8 raw 58 ∧ recordField raw 66 6 = 0

/-- A record's MOD, DT and SCH fields hold these codes (R123 to R125, R177; Tables 41-1 and
41-2). -/
abbrev RecordNames (b : Band) (raw : List Byte) (m : Modulation) (dt : Delimiter) (sch : Scheme) :
    Prop :=
  recordField raw 8 2 = (match m with
    | .robo => 0
    | .bpsk => 1
    | .qpsk => 2
    | .psk8 => 3) ∧
  recordField raw (match Config.layout b with
      | .cen => 25
      | .fa => 43) 2 = (match dt with
    | .dataNoResp => 0
    | .dataResp => 1
    | .ack => 2
    | .nack => 3) ∧
  recordField raw (match Config.layout b with
      | .cen => 27
      | .fa => 45) 1 = (match sch with
    | .differential => 0
    | .coherent => 1)

/-- The record with the bit at position p flipped (R171, R196). -/
def flipBit (raw : List Byte) (p : Nat) : List Byte :=
  raw.set (p / 8) (raw.getD (p / 8) 0#8 ^^^ BitVec.twoPow 8 (7 - p % 8))

end Sys2Proof.Machine
end

