-- ==== Sys2Proof/Certificates/Slice0/Obligations.lean ====
section
/-! DEFINITION. The statements about the model. Every R<n> is a rule of spec/. Event words are
written with their source bits as a number, bit i for source i (R130): 0x001 LINK_ERROR, 0x002
CS_PEAK, 0x004 TX_SYMBOL, 0x008 RX_SYNC, 0x010 RX_NOPEAK2, 0x020 RX_BUF, 0x040 RX_ABORT, 0x080
AGC_DONE, 0x100 CAPTURE_DONE; result codes are the numbers of Table 30-2, counters the indices of
R41. The premise `irqPending = 0` is R61 (f), kept by every step (`ConsistencyKept`). -/

open Sys2Proof Sys2Proof.Machine

/-! ## Encoding -/

/-- Decoding the encoding of an instruction, on the port of its opcode, gives the instruction: no
operand bit of R112 to R118 is lost. -/
def Obligations.DecodeEncodeAgree : Prop :=
  ∀ i : Instr, decode i.port (encode i) = .instr i

/-- The decoder of R135 accepts a word on a port exactly when it fits a row of the mask and match
table of R112 to R118 with that port; no word fits two rows of one port; and an accepted word is
the encoding of what it decodes to, on that instruction's port, so that it has one meaning. -/
def Obligations.AcceptedWordsAreTableWords : Prop :=
  ∀ (p : Port) (w : Word),
    ((∃ i, decode p w = .instr i) ↔ wellFormedWord p w = true) ∧
    (opcodeTable.filter fun r => r.port == p && r.fits w).length ≤ 1 ∧
    ∀ i, decode p w = .instr i → i.port = p ∧ encode i = w

/-- The eleven words of R134. -/
def Obligations.CommonWordsDecode : Prop :=
  decode .cmd 0x04000000#32 = .instr (.init .cenelecA) ∧
  decode .cmd 0x04000002#32 = .instr (.init .fcc) ∧
  decode .cmd 0x09008040#32 =
    .instr (.transmit .bpsk .differential .dataNoResp 0#4 false true 64#9) ∧
  decode .cmd 0x0A008190#32 =
    .instr (.transmit .qpsk .differential .dataNoResp 0#4 false true 400#9) ∧
  decode .cmd 0x0C000024#32 = .instr (.getParam 0x0024#16) ∧
  decode .cmd 0x10000013#32 = .instr (.setParam 0x0013#16) ∧
  decode .cmd 0x14000000#32 = .instr .process ∧
  decode .cmd 0x18000000#32 = .instr .cancel ∧
  decode .evt 0x80030004#32 = .instr (.evIrq 0x004#9 true true) ∧
  decode .evt 0x80010020#32 = .instr (.evIrq 0x020#9 true false) ∧
  decode .evt 0x840003E8#32 = .instr (.evTick 1000#16)

/-- A reserved opcode, a set reserved bit, or an opcode of the other port leaves INVALID_OPCODE in
RESULT and changes nothing else, initialised or not (R119, R120). -/
def Obligations.ReservedWordRefused : Prop :=
  ∀ (p : Port) (w : Word) (s : State),
    (opcodeAssigned w = false ∨ reservedBitsClear w = false ∨ opcodeOnPort p w = false) →
      processWordOn p w s = .next (s.withResult 8#32)

/-! ## Steps and the register window -/

/-- The step that receives a word which decodes to an instruction is that instruction's `exec`, on
the state without the word; a word that does not decode leaves INVALID_OPCODE; and the state
`withFetchWord` makes has its word received next. That the words an agent writes wait in
`State.inputs`, and that `withFetchWord` puts one there, is the model's choice (log 1). -/
def Obligations.StepRunsDecodedInstruction : Prop :=
  (∀ (p : Port) (w : Word) (i : Instr) (s : State) (rest : List Access),
    s.inputs = wordWrite p w :: rest → decode p w = .instr i →
      step s = exec i { s with inputs := rest }) ∧
  (∀ (p : Port) (w : Word) (r : Reject) (s : State) (rest : List Access),
    s.inputs = wordWrite p w :: rest → decode p w = .reject r →
      step s = .next { s.withResult 8#32 with inputs := rest }) ∧
  ∀ (nbits w : Nat) (i : Instr) (s : State),
    decodeTableWord nbits w = some i → step (s.withFetchWord nbits w) = exec i s

/-- The rights violations of Table 20-1, address by address: the read returns 0, the write is
ignored, and no state changes (R81, R82). -/
def Obligations.RightsViolations : Prop :=
  (∀ (s : State) (v : Word), ∀ a ∈ [0x004, 0x00C, 0x020, 0x024, 0x028, 0x02C, 0x030, 0x034],
    receive (.write .host a .b4 v) s = .next s) ∧
  (∀ (s : State) (v : Word) (a : Nat) (n : Width), 0x300 ≤ a → a < 0x700 →
    accessStop a n = none → receive (.write .host a n v) s = .next s) ∧
  (∀ (s : State) (v : Word), ∀ a ∈ [0x000, 0x004, 0x008, 0x010, 0x014, 0x018],
    receive (.write .frontEnd a .b4 v) s = .next s) ∧
  (∀ (s : State) (v : Word) (a : Nat) (n : Width), 0x100 ≤ a → a < 0x300 →
    accessStop a n = none → receive (.write .frontEnd a n v) s = .next s) ∧
  (∀ s : State, ∀ a ∈ [0x000, 0x00C],
    receive (.read .host a .b4) s = .next { s with readData := 0#32 }) ∧
  ∀ s : State, ∀ a ∈ [0x000, 0x008, 0x00C, 0x010, 0x014, 0x018],
    receive (.read .frontEnd a .b4) s = .next { s with readData := 0#32 }

/-- Reserved addresses read 0 and ignore writes (R89, R88), for every access R85 lets through. That
addresses past 0x7FF, which are in no entry of the table, are reserved ones, and that every width
and alignment is let through from 0x700 on, is the model's reading (log 10 and log 11, DEDUCED). -/
def Obligations.ReservedAddresses : Prop :=
  ∀ (g : Agent) (a : Nat) (n : Width) (v : Word) (s : State),
    (a = 0x01C ∨ (0x038 ≤ a ∧ a ≤ 0x0FF) ∨ 0x700 ≤ a) → accessStop a n = none →
      receive (.read g a n) s = .next { s with readData := 0#32 } ∧
      receive (.write g a n v) s = .next s

/-- Widths and alignment: 32-bit aligned accesses only of 0x000 to 0x0FF (R85), naturally aligned
ones of TXBUF and RXCAP, 32-bit aligned ones of CAPMEM (R86). Any other is refused, these are not,
and none of them crosses an entry of Table 20-1. That every access from 0x700 on is let through is
the model's reading (log 10 and log 11, DEDUCED). -/
def Obligations.AccessWidthAndAlignment : Prop :=
  ∀ (g : Agent) (a : Nat) (n : Width) (v : Word) (s : State),
    (a < 0x100 → ¬(n = .b4 ∧ a % 4 = 0) →
      receive (.read g a n) s = .refused .registerAccess ∧
      receive (.write g a n v) s = .refused .registerAccess) ∧
    (0x100 ≤ a → a < 0x500 → a % n.bytes ≠ 0 →
      receive (.read g a n) s = .refused .bufferAccess ∧
      receive (.write g a n v) s = .refused .bufferAccess) ∧
    (0x500 ≤ a → a < 0x700 → ¬(n = .b4 ∧ a % 4 = 0) →
      receive (.read g a n) s = .refused .bufferAccess ∧
      receive (.write g a n v) s = .refused .bufferAccess) ∧
    ((a < 0x100 ∧ n = .b4 ∧ a % 4 = 0) ∨ (0x100 ≤ a ∧ a < 0x500 ∧ a % n.bytes = 0) ∨
        (0x500 ≤ a ∧ a < 0x700 ∧ n = .b4 ∧ a % 4 = 0) ∨ 0x700 ≤ a →
      (∃ t, receive (.read g a n) s = .next t) ∧ (∃ t, receive (.write g a n v) s = .next t) ∧
      (0x100 ≤ a → regionOf (a + (n.bytes - 1)) = regionOf a))

/-- A read changes nothing but the value handed to its agent, and a write to an address other than
CMD and EVT stores data in the window and does nothing else, RESULT included (R88, R90). -/
def Obligations.AccessEffects : Prop :=
  (∀ (g : Agent) (a : Nat) (n : Width) (s t : State),
    receive (.read g a n) s = .next t → t = { s with readData := t.readData }) ∧
  ∀ (g : Agent) (a : Nat) (n : Width) (v : Word) (s t : State), a ≠ 0x000 → a ≠ 0x00C →
    receive (.write g a n v) s = .next t →
      t = { s with win := t.win, mem := t.mem } ∧ t.win.result = s.win.result

/-- Each writable register takes the value at its stored width, a read returns it with the bits
above that width 0, to every agent with the right, and nothing else changes; a read of RESULT
returns RESULT to both agents (R81, R82, R88). -/
def Obligations.RegisterStoreThenLoad : Prop :=
  ∀ (s : State) (v : Word),
    (∀ g, receive (.read g 0x004 .b4) s = .next { s with readData := s.win.result }) ∧
    (let t := { s with win := { s.win with paramData := v } }
     receive (.write .host 0x008 .b4 v) s = .next t ∧ receive (.read .host 0x008 .b4) t = .next { t with readData := v }) ∧
    (let t := { s with win := { s.win with txTonemap := v.extractLsb' 0 24 } }
     receive (.write .host 0x010 .b4 v) s = .next t ∧
       receive (.read .host 0x010 .b4) t = .next { t with readData := v &&& 0x00FFFFFF#32 }) ∧
    (let t := { s with win := { s.win with txPdc := v.extractLsb' 0 8 } }
     receive (.write .host 0x014 .b4 v) s = .next t ∧
       receive (.read .host 0x014 .b4) t = .next { t with readData := v &&& 0x000000FF#32 }) ∧
    (let t := { s with win := { s.win with txTime := v } }
     receive (.write .host 0x018 .b4 v) s = .next t ∧ receive (.read .host 0x018 .b4) t = .next { t with readData := v }) ∧
    (let t := { s with win := { s.win with feRms := v } }
     receive (.write .frontEnd 0x020 .b4 v) s = .next t ∧
       ∀ g, receive (.read g 0x020 .b4) t = .next { t with readData := v }) ∧
    (let t := { s with win := { s.win with feEvmHdr := v } }
     receive (.write .frontEnd 0x024 .b4 v) s = .next t ∧
       ∀ g, receive (.read g 0x024 .b4) t = .next { t with readData := v }) ∧
    (let t := { s with win := { s.win with feEvmPay := v } }
     receive (.write .frontEnd 0x028 .b4 v) s = .next t ∧
       ∀ g, receive (.read g 0x028 .b4) t = .next { t with readData := v }) ∧
    (let t := { s with win := { s.win with feRssi := v } }
     receive (.write .frontEnd 0x02C .b4 v) s = .next t ∧
       ∀ g, receive (.read g 0x02C .b4) t = .next { t with readData := v }) ∧
    (let t := { s with win := { s.win with feLqi := v } }
     receive (.write .frontEnd 0x030 .b4 v) s = .next t ∧
       ∀ g, receive (.read g 0x030 .b4) t = .next { t with readData := v }) ∧
    (let t := { s with win := { s.win with feRxNbytes := v.extractLsb' 0 10 } }
     receive (.write .frontEnd 0x034 .b4 v) s = .next t ∧
       ∀ g, receive (.read g 0x034 .b4) t = .next { t with readData := v &&& 0x000003FF#32 })

/-- A buffer store by an agent with the right puts the value's low bytes at a, a+1, ..., least
significant first, leaves every other byte and all other state alone, and a load of the same bytes
by any agent with the right gives them back (R83, R84, R88, R94). That an access of 1 or 2 bytes
stores the value's low bytes and reads 0 above them is log 20 (DEDUCED). The memory is in its
canonical form (log 15), which every step keeps (`MemoryFormKept`). -/
def Obligations.BufferStoreThenLoad : Prop :=
  ∀ (g h : Agent) (a : Nat) (n : Width) (v : Word) (s : State), s.MemoryInForm →
    0x100 ≤ a → a < 0x700 → accessStop a n = none → canWrite g (regionOf a) = true →
    canRead h (regionOf a) = true →
    ∃ m : Memory, receive (.write g a n v) s = .next { s with mem := m } ∧
      (∀ x, x < a ∨ a + n.bytes ≤ x → m.read x = s.mem.read x) ∧
      (∀ i, i < n.bytes → m.read (a + i) = v.extractLsb' (8 * i) 8) ∧
      receive (.read h a n) { s with mem := m } =
        .next { s with
          mem := m
          readData := v &&& (match n with
            | .b1 => 0x000000FF#32
            | .b2 => 0x0000FFFF#32
            | .b4 => 0xFFFFFFFF#32) }

/-! ## Reset and invariants -/

/-- Table 70-1. The gain's value is the configuration's GINIT[HIGH]. -/
def Obligations.ResetState : Prop :=
  State.reset.glob =
      { initialised := false, band := .cenelecA, timeMs := 0#32, staticNotch := 0#128,
        legacyMode := false, forceNoOutput := false, noiseIntervalMs := 60000#32,
        noiseDueMs := 60000#32 } ∧
    State.reset.win =
      { result := 0#32, paramData := 0#32, txTonemap := 0#24, txPdc := 0#8, txTime := 0#32,
        feRms := 0#32, feEvmHdr := 0#32, feEvmPay := 0#32, feRssi := 0#32, feLqi := 0#32,
        feRxNbytes := 0#10 } ∧
    (∀ a, State.reset.mem.read a = 0#8) ∧ State.reset.irqPending = 0#9 ∧
    State.reset.tx = { step := .idle, ctl := none, pend := none } ∧
    State.reset.rx = { step := .idle, sub := .none, ctl := none } ∧
    (State.reset.noise.step = .idle ∧ State.reset.noise.k = 0#8 ∧
      (∀ i : Fin 128, State.reset.noise.acc[i.val] = 0#32 ∧
        State.reset.noise.power[i.val] = 0#32) ∧
      State.reset.noise.notchCarrier = 0#8 ∧ State.reset.noise.notchActive = false) ∧
    State.reset.imp =
      { coupling := .high, gain := BitVec.ofNat 8 (Config.cfg.ginit .high), autoDetect := true,
        lastRms := 0#32 } ∧
    (∀ i : Fin 11, State.reset.stats[i.val] = 0#32) ∧ State.reset.lastLqi = 0#32 ∧
    State.reset.hostOut = [] ∧ State.reset.feOut = []

/-- Every invariant stated below holds at reset. -/
def Obligations.ResetMeetsInvariants : Prop :=
  State.reset.Consistent ∧ State.reset.TxTracksSymbol ∧ State.reset.SubNamesChunk ∧
    State.reset.NotchInBand ∧ State.reset.IntervalNonzero ∧ State.reset.SlotEmptyOnAir ∧
    State.reset.BuffersBounded ∧ State.reset.BlockNumbered ∧
    State.reset.GainInBounds Config.cfg ∧ State.reset.MemoryInForm

/-- Every step keeps R61 (a) to (g): the control records exist exactly while their machines run,
TX, RX and noise capture exclude each other, and no interrupt is pending between words. -/
def Obligations.ConsistencyKept : Prop :=
  ∀ s t : State, s.Consistent → step s = .next t → t.Consistent

/-- Every step keeps: st.tx_step names the symbol at st.txc.pos (R46, R262), st.rx_sub is nonzero
exactly in PayloadDemod (R49), the static notch is masked to the band (R33), the noise interval is
not 0 (R35), no confirmation waits while a frame is on the air (R354), a reception's two block
buffers hold at most 512 bytes each (R50), and st.rxc.blk is 0 until block 1 of two starts (R316,
R318, R358). That CS_PEAK creates it as 0, where R50 has it defined when first written, is log 8. -/
def Obligations.FieldInvariantsKept : Prop :=
  ∀ s t : State,
    s.TxTracksSymbol ∧ s.SubNamesChunk ∧ s.NotchInBand ∧ s.IntervalNonzero ∧ s.SlotEmptyOnAir ∧
      s.BuffersBounded ∧ s.BlockNumbered →
    step s = .next t →
      t.TxTracksSymbol ∧ t.SubNamesChunk ∧ t.NotchInBand ∧ t.IntervalNonzero ∧ t.SlotEmptyOnAir ∧
        t.BuffersBounded ∧ t.BlockNumbered

/-- Every step keeps the gain step within GMIN and GMAX of the impedance state it is in (R242,
R243, R362, R245). -/
def Obligations.GainBoundsKept : Prop :=
  ∀ s t : State, s.GainInBounds Config.cfg → step s = .next t → t.GainInBounds Config.cfg

/-- Every step keeps the memory's canonical form, so that equal window contents are equal data,
with entries in TXBUF, RXCAP and CAPMEM only (the model's form, log 15). -/
def Obligations.MemoryFormKept : Prop :=
  ∀ s t : State, s.MemoryInForm → step s = .next t → t.MemoryInForm

/-! ## Rules over all words -/

/-- Who writes what, over every word: no word stores into the buffers, the TX descriptors or the
front-end registers (R88, R90); PARAM_DATA changes only by GET_PARAM (R357, R359); the band and the
initialised flag only by INIT (R31); the time only by EV_TICK (R32); the legacy, force-no-output
and noise-interval settings only by their SET_PARAM (R34, R35); the static notch only by
STATIC_NOTCH_Wk and by masking to the band (R33); last_lqi only by PROCESS (R42). The due time of
the noise capture is set to time plus interval by INIT, LINK_ERROR, PROCESS (the start of a capture,
a watchdog's reinitialisation) and SET_PARAM NOISE_INTERVAL_MS (R35). The counters are cleared by
STATS_CLEAR, all together; every other word leaves each as it was or counts it up modulo 2^32, and
only the words of the rules R41 names do: by one, CHAIN_ERR by two where both chains fail in one
EV_IRQ word, which takes a TX frame and a reception at once (a state outside R61 (d)). -/
def Obligations.FieldWriters : Prop :=
  ∀ (i : Instr) (s t : State), exec i s = .next t →
    (t.mem = s.mem ∧ t.inputs = s.inputs ∧ t.readData = s.readData) ∧
    t.win = { s.win with result := t.win.result, paramData := t.win.paramData } ∧
    (t.win.paramData = s.win.paramData ∨ ∃ id, i = .getParam id) ∧
    ((t.glob.band = s.glob.band ∧ t.glob.initialised = s.glob.initialised) ∨
      (i = .init t.glob.band ∧ t.glob.initialised = true)) ∧
    (t.glob.timeMs = s.glob.timeMs ∨
      ∃ d, i = .evTick d ∧ t.glob.timeMs = s.glob.timeMs + d.setWidth 32) ∧
    (t.glob.legacyMode = s.glob.legacyMode ∨ i = .setParam 0x0010#16) ∧
    (t.glob.forceNoOutput = s.glob.forceNoOutput ∨ i = .setParam 0x0012#16) ∧
    (t.glob.noiseIntervalMs = s.glob.noiseIntervalMs ∨ i = .setParam 0x0013#16) ∧
    (t.glob.staticNotch = s.glob.staticNotch ∨
      t.glob.staticNotch = s.glob.staticNotch &&& fullMask t.glob.band ∨
      ∃ k : Fin 4, i = .setParam (BitVec.ofNat 16 k.val)) ∧
    (t.lastLqi = s.lastLqi ∨ i = .process) ∧
    (t.glob.noiseDueMs = s.glob.noiseDueMs ∨
      t.glob.noiseDueMs = t.glob.timeMs + t.glob.noiseIntervalMs ∧
        ((∃ b, i = .init b) ∨ i = .process ∨ i = .setParam 0x0013#16 ∨
          ∃ src txok rxok, i = .evIrq src txok rxok ∧ (s.irqPending ||| src).getLsbD 0 = true)) ∧
    (i = .setParam 0x002F#16 ∧ t.stats = Vector.replicate 11 0#32 ∨
      ∀ k : Fin 11, t.stats[k.val] = s.stats[k.val] ∨
        (t.stats[k.val] = s.stats[k.val] + 1#32 ∨
          k.val = 9 ∧ t.stats[k.val] = s.stats[k.val] + 2#32) ∧
        (i = .process ∧ k.val ∈ [1, 3, 5, 8, 10] ∨ i = .cancel ∧ k.val = 2 ∨
          ∃ src txok rxok, i = .evIrq src txok rxok ∧
            (k.val ∈ [0, 2, 4, 6, 7, 9] ∨
              k.val = 10 ∧ (s.irqPending ||| src).getLsbD 0 = true)))

/-- ImpedanceState is written by the gain controller in PROCESS for a SUCCESS confirmation with
adaptation, by SET_PARAM IMPEDANCE while TX is idle, and reset by INIT, LINK_ERROR and the
watchdogs; by nothing else (R244, R245). INIT in any state and LINK_ERROR in an initialised block do
reset it; that the watchdogs do is in `WatchdogsFire`. -/
def Obligations.ImpedanceWriters : Prop :=
  ∀ (i : Instr) (s t : State), exec i s = .next t →
    (((∃ b, i = .init b) ∨
        s.glob.initialised = true ∧ ∃ src txok rxok, i = .evIrq src txok rxok ∧
          (s.irqPending ||| src).getLsbD 0 = true) →
      t.imp = { coupling := .high, gain := BitVec.ofNat 8 (Config.cfg.ginit .high),
                autoDetect := true, lastRms := 0#32 }) ∧
    (t.imp = s.imp ∨
     (t.imp = (s.freshPhy Config.cfg).imp ∧
       ((∃ b, i = .init b) ∨ i = .process ∨
         ∃ src txok rxok, i = .evIrq src txok rxok ∧ (s.irqPending ||| src).getLsbD 0 = true)) ∨
     (i = .setParam 0x0011#16 ∧ s.tx.step = .idle ∧ s.tx.pend = none ∧
       t.imp.lastRms = s.imp.lastRms) ∨
     (i = .process ∧ ∃ p, s.tx.pend = some p ∧ p.code = .success ∧ p.adapt = true ∧
       t.imp.autoDetect = s.imp.autoDetect ∧ t.imp.lastRms = p.rms ∧
       (t.imp.coupling, t.imp.gain) =
         (let r := gainControl Config.cfg s.glob.band s.imp.coupling p.pwr.toNat p.rms.toNat
           s.imp.gain.toNat s.imp.autoDetect
          (r.1, BitVec.ofNat 8 r.2))))

/-- The output logs only grow: no word removes or changes a record (R64). -/
def Obligations.LogsOnlyGrow : Prop :=
  ∀ (i : Instr) (s t : State), exec i s = .next t →
    s.hostOut <+: t.hostOut ∧ s.feOut <+: t.feOut

/-! ## INIT, the time base, words before INIT, interrupt words -/

/-- INIT in any state: the band is selected and the PHY reinitialised without a count; all else is
kept, and neither a frame, a confirmation, a reception nor a capture leaves a record (R351,
R412). -/
def Obligations.InitResult : Prop :=
  ∀ (b : Band) (s : State),
    exec (.init b) s =
      .next ((({ s with glob := { s.glob with band := b, initialised := true } }).freshPhy
        Config.cfg).withResult 0#32)

/-- LINK_ERROR in a word of an initialised block, whatever other sources the word carries: a
counted reinitialisation and nothing else (R411, R412). -/
def Obligations.LinkErrorReinitialises : Prop :=
  ∀ (src : BitVec 9) (txok rxok : Bool) (s : State),
    s.glob.initialised = true → src.getLsbD 0 = true →
      exec (.evIrq src txok rxok) s =
        .next { (s.freshPhy Config.cfg).withResult 0#32 with
          stats := s.stats.set 10 (s.stats[10] + 1#32) }

/-- EV_TICK advances the time modulo 2^32 and has no other effect, before INIT as well (R370). -/
def Obligations.TickAdvancesTime : Prop :=
  ∀ (delta : BitVec 16) (s : State),
    exec (.evTick delta) s =
      .next { s.withResult 0#32 with
        glob := { s.glob with timeMs := s.glob.timeMs + delta.setWidth 32 } }

/-- Before INIT: TRANSMIT, PROCESS, CANCEL and SET_PARAM IMPEDANCE give NOT_INIT and nothing else
(R350); an EV_IRQ word gives SUCCESS and its sources are dropped (R410). -/
def Obligations.WordsBeforeInit : Prop :=
  ∀ s : State, s.glob.initialised = false →
    (∀ mod sch dt pwr noadapt imm len,
      exec (.transmit mod sch dt pwr noadapt imm len) s = .next (s.withResult 9#32)) ∧
    exec .process s = .next (s.withResult 9#32) ∧
    exec .cancel s = .next (s.withResult 9#32) ∧
    exec (.setParam 0x0011#16) s = .next (s.withResult 9#32) ∧
    ∀ src txok rxok,
      exec (.evIrq src txok rxok) s = .next { s.withResult 0#32 with irqPending := 0#9 }

/-- The sources of one EV_IRQ word are handled in ascending bit order, each with the word's txok
and rxok: the word acts as the words of its single sources in that order (R407, R408). LINK_ERROR,
which drops the other sources, is `LinkErrorReinitialises`. A word without sources only writes
RESULT (R406). -/
def Obligations.IrqWordSplits : Prop :=
  (∀ (txok rxok : Bool) (s : State), s.glob.initialised = true → s.irqPending = 0#9 →
    exec (.evIrq 0#9 txok rxok) s = .next (s.withResult 0#32)) ∧
  ∀ (src : BitVec 9) (txok rxok : Bool) (s : State), s.glob.initialised = true →
    s.irqPending = 0#9 → src.getLsbD 0 = false →
      exec (.evIrq src txok rxok) s =
        execAll (.evIrq 0#9 txok rxok ::
          ((List.range 9).filter fun n => src.getLsbD n).map
            fun n => .evIrq (BitVec.twoPow 9 n) txok rxok) s

/-! ## TRANSMIT and CANCEL -/

/-- A TRANSMIT while RX is not Idle is rejected with BUSY_RX and a synchronous confirmation, also
when TX is busy; while TX is not idle and RX is, it gets BUSY_TX and no confirmation (R352,
R353). -/
def Obligations.TransmitBusy : Prop :=
  ∀ (mod : Modulation) (sch : Scheme) (dt : Delimiter) (pwr : BitVec 4) (noadapt imm : Bool)
    (len : BitVec 9) (s : State), s.glob.initialised = true →
    (s.rx.step ≠ .idle →
      exec (.transmit mod sch dt pwr noadapt imm len) s =
        .next { s.withResult 3#32 with
          hostOut := s.hostOut ++ [.confirm .busyRx s.glob.timeMs 0#32] }) ∧
    (s.rx.step = .idle → ¬(s.tx.step = .idle ∧ s.tx.pend = none) →
      exec (.transmit mod sch dt pwr noadapt imm len) s = .next (s.withResult 2#32))

/-- The checks of R352 on a frame of an idle block, each reached when those before it pass: length,
reserved tone-map bits, payload carriers, frame length, start time. A rejected frame leaves a
result and a synchronous confirmation and nothing else (R353). -/
def Obligations.FrameRejected : Prop :=
  ∀ (mod : Modulation) (sch : Scheme) (dt : Delimiter) (pwr : BitVec 4) (noadapt imm : Bool)
    (len : BitVec 9) (s : State), s.glob.initialised = true → s.rx.step = .idle →
    s.tx.step = .idle → s.tx.pend = none →
    let rejected := fun (code : Word) (x : ResultCode) =>
      exec (.transmit mod sch dt pwr noadapt imm len) s =
        .next { s.withResult code with
          hostOut := s.hostOut ++ [.confirm x s.glob.timeMs 0#32] }
    let npc := payloadCarrierCount Config.cfg s.glob.band s.win.txTonemap s.glob.staticNotch sch
    let f := frameLength s.glob.band len.toNat mod npc
    let late := imm = false ∧ (s.win.txTime - s.glob.timeMs).toInt < 0
    let lengthOk := 1 ≤ len.toNat ∧ len.toNat ≤ maxpay s.glob.band mod
    let toneMapOk := s.win.txTonemap >>> Config.tmBits s.glob.band = 0#24
    ((dt = .dataNoResp ∨ dt = .dataResp) →
      (¬lengthOk → rejected 4#32 .invalidLength) ∧
      (lengthOk → ¬toneMapOk → rejected 5#32 .invalidTonemap) ∧
      (lengthOk → toneMapOk → npc = 0 → rejected 5#32 .invalidTonemap) ∧
      (lengthOk → toneMapOk → npc ≠ 0 → 511 < f.fl → rejected 4#32 .invalidLength) ∧
      (lengthOk → toneMapOk → npc ≠ 0 → f.fl ≤ 511 → late → rejected 6#32 .timeout)) ∧
    ((dt = .ack ∨ dt = .nack) → late → rejected 6#32 .timeout)

/-- A data frame that passes every check is accepted: PROCESS, the frame's control record with its
symbol sequence, FCH and padded blocks cut from TXBUF as it stands, a running noise capture
aborted first, then FE_TX_START and the configuration of PRE(1) (R352, R354, R261, R263, R264,
R197). -/
def Obligations.DataFrameAccepted : Prop :=
  ∀ (mod : Modulation) (sch : Scheme) (dt : Delimiter) (pwr : BitVec 4) (noadapt imm : Bool)
    (len : BitVec 9) (s : State), s.glob.initialised = true → s.rx.step = .idle →
    s.tx.step = .idle → s.tx.pend = none → (dt = .dataNoResp ∨ dt = .dataResp) →
    let b := s.glob.band
    let npc := payloadCarrierCount Config.cfg b s.win.txTonemap s.glob.staticNotch sch
    let f := frameLength b len.toNat mod npc
    1 ≤ len.toNat → len.toNat ≤ maxpay b mod → s.win.txTonemap >>> Config.tmBits b = 0#24 →
    npc ≠ 0 → f.fl ≤ 511 → (imm = true ∨ 0 ≤ (s.win.txTime - s.glob.timeMs).toInt) →
    let two := Config.twoBlk b = true ∧ 255 - Config.parity mod < len.toNat
    let half := (len.toNat + 1) / 2
    let padded := fun at_ n =>
      s.mem.readBytes (0x100 + at_) n ++ List.replicate (f.lb - n) 0#8
    let fch := encodeData b
      { pdc := s.win.txPdc, mod := mod, sch := sch, dt := dt, tm := s.win.txTonemap, fl := f.fl,
        rsb := decide two }
    exec (.transmit mod sch dt pwr noadapt imm len) s =
      .next { s.withResult 1#32 with
        noise :=
          if s.noise.step = .idle then s.noise else { s.noise with step := .idle, k := 0#8 }
        tx :=
          { step := .preambleFirst
            pend := none
            ctl := some
              { mod := mod
                sch := sch
                dt := dt
                pwr := pwr
                noadapt := noadapt
                fch := fch
                seq :=
                  [.pre 1, .pre 2] ++ (List.range (Config.nfch b)).map (fun j => .hdr (j + 1)) ++
                    (if sch = .coherent then [.sync 1, .sync 2] else []) ++
                    (List.range f.flb).map (fun j => .pay 0 (j + 1)) ++
                    (if two then (List.range f.flb).map (fun j => .pay 1 (j + 1)) else []) ++
                    [.fin]
                pos := 0
                flb := f.flb
                blks :=
                  if two then [padded 0 half, padded half (len.toNat / 2)]
                  else [padded 0 len.toNat]
                parity := Config.parity mod
                start := if imm then s.glob.timeMs else s.win.txTime } }
        feOut := s.feOut ++ (if s.noise.step = .idle then [] else [.captureAbort]) ++
          [.txStart
            { start := if imm then none else some s.win.txTime
              gain := s.imp.gain
              imp := s.imp.coupling
              pwr := pwr
              outEn := !s.glob.forceNoOutput
              mod := mod
              sch := sch
              tm := s.win.txTonemap
              fch := fch },
            .txCfg (.pre 1)
              (if s.noise.notchActive = true then some s.noise.notchCarrier else none)] }

/-- An ACK or NACK frame is accepted without a look at its length or the tone map: its FCH is
TXBUF's first bytes with the CRC recomputed, it has no sync and payload symbols and no blocks, and
FE_TX_START carries tone map 0 (R352, R354, R261, R263, R283). The recomputed record keeps every
caller bit outside CRC and TAIL, and one whose DT field is ACK or NACK decodes to a control header
with the caller's fields (R192, R193 step 3). -/
def Obligations.ControlFrameAccepted : Prop :=
  (∀ (c : Cfg) (b : Band) (static : Mask) (raw : List Byte), raw.length = Config.fchLen b →
    let fch := encodeAck b raw
    fch.length = Config.fchLen b ∧ RecordSealed b fch ∧
    (∀ p, p < (match b with
        | .cenelecA => 28
        | .cenelecB => 28
        | .fcc => 58
        | .arib => 58) → recordBit fch p = recordBit raw p) ∧
    ∀ m dt sch, (dt = .ack ∨ dt = .nack) → RecordNames b raw m dt sch →
      decodeFch c b fch static = some (.control dt (raw.getD 0 0#8) m sch)) ∧
  ∀ (mod : Modulation) (sch : Scheme) (dt : Delimiter) (pwr : BitVec 4) (noadapt imm : Bool)
    (len : BitVec 9) (s : State), s.glob.initialised = true → s.rx.step = .idle →
    s.tx.step = .idle → s.tx.pend = none → (dt = .ack ∨ dt = .nack) →
    (imm = true ∨ 0 ≤ (s.win.txTime - s.glob.timeMs).toInt) →
    let b := s.glob.band
    let fch := encodeAck b (s.mem.readBytes 0x100 (Config.fchLen b))
    exec (.transmit mod sch dt pwr noadapt imm len) s =
      .next { s.withResult 1#32 with
        noise :=
          if s.noise.step = .idle then s.noise else { s.noise with step := .idle, k := 0#8 }
        tx :=
          { step := .preambleFirst
            pend := none
            ctl := some
              { mod := mod
                sch := sch
                dt := dt
                pwr := pwr
                noadapt := noadapt
                fch := fch
                seq :=
                  [.pre 1, .pre 2] ++ (List.range (Config.nfch b)).map (fun j => .hdr (j + 1)) ++
                    [.fin]
                pos := 0
                flb := 0
                blks := []
                parity := 0
                start := if imm then s.glob.timeMs else s.win.txTime } }
        feOut := s.feOut ++ (if s.noise.step = .idle then [] else [.captureAbort]) ++
          [.txStart
            { start := if imm then none else some s.win.txTime
              gain := s.imp.gain
              imp := s.imp.coupling
              pwr := pwr
              outEn := !s.glob.forceNoOutput
              mod := mod
              sch := sch
              tm := 0#24
              fch := fch },
            .txCfg (.pre 1)
              (if s.noise.notchActive = true then some s.noise.notchCarrier else none)] }

/-- CANCEL on an initialised block: it cancels a frame in a pre-payload state (R277), returns
BUSY_TX in a payload state and SUCCESS in Idle and Cancelled, changing nothing else (R356). -/
def Obligations.CancelWord : Prop :=
  ∀ s : State, s.glob.initialised = true →
    (s.tx.step ∈ [.preambleFirst, .preambleLast, .headerFirst, .header, .cohSync] →
      exec .cancel s =
        .next { s.withResult 0#32 with
          tx :=
            { step := .cancelled
              ctl := none
              pend := some
                { code := .busyRx, t := s.glob.timeMs, rms := 0#32, adapt := false, pwr := 0#4 } }
          stats := s.stats.set 2 (s.stats[2] + 1#32)
          feOut := s.feOut ++ [.txAbort] }) ∧
    (s.tx.step ∈ [.payloadFirst, .payload, .payloadLast, .endSymbol] →
      exec .cancel s = .next (s.withResult 2#32)) ∧
    (s.tx.step ∈ [.idle, .cancelled] → exec .cancel s = .next (s.withResult 0#32))

/-! ## Parameters -/

/-- GET_PARAM of every readable id puts its value, written out with the bit places of R358, into
PARAM_DATA; the write-only id and every other id give INVALID_PARAM; nothing else changes, before
INIT as well (R357, R131). RX_STATE shows st.rxc.blk, and 0 before a payload block has started: in
Idle, in every state before PayloadFirst, and in an ACK/NACK reception, under `BlockNumbered`, which
every step keeps (`FieldInvariantsKept`). -/
def Obligations.GetParamValues : Prop :=
  ∀ s : State,
    let got := fun (id : BitVec 16) (v : Word) =>
      exec (.getParam id) s = .next { s with win := { s.win with paramData := v, result := 0#32 } }
    (∀ k : Fin 4, got (BitVec.ofNat 16 k.val) (s.glob.staticNotch.extractLsb' (32 * k.val) 32)) ∧
    got 0x0010#16 (if s.glob.legacyMode then 1#32 else 0#32) ∧
    got 0x0011#16
      ((match s.imp.coupling with
          | .high => 0#32
          | .low => 1#32
          | .vlo => 2#32) |||
        ((if s.imp.autoDetect then 1#32 else 0#32) <<< 2) ||| (s.imp.gain.setWidth 32 <<< 8)) ∧
    got 0x0012#16 (if s.glob.forceNoOutput then 1#32 else 0#32) ∧
    got 0x0013#16 s.glob.noiseIntervalMs ∧
    got 0x0014#16 s.imp.lastRms ∧
    (∀ k : Fin 11, got (BitVec.ofNat 16 (0x20 + k.val)) s.stats[k.val]) ∧
    got 0x0030#16 s.lastLqi ∧
    got 0x0031#16
      ((Config.cfg.tmResponse s.noise.power s.glob.staticNotch s.glob.band).setWidth 32) ∧
    got 0x0032#16
      (s.noise.notchCarrier.setWidth 32 |||
        ((if s.noise.notchActive then 1#32 else 0#32) <<< 8)) ∧
    got 0x0033#16
      ((match s.glob.band with
          | .cenelecA => 0#32
          | .cenelecB => 1#32
          | .fcc => 2#32
          | .arib => 3#32) |||
        ((if s.glob.initialised then 1#32 else 0#32) <<< 31)) ∧
    got 0x0034#16
      ((match s.tx.step with
          | .idle => 0#32
          | .preambleFirst => 1#32
          | .preambleLast => 2#32
          | .headerFirst => 3#32
          | .header => 4#32
          | .cohSync => 5#32
          | .payloadFirst => 6#32
          | .payload => 7#32
          | .payloadLast => 8#32
          | .endSymbol => 9#32
          | .cancelled => 10#32) |||
        ((if s.tx.pend.isSome then 1#32 else 0#32) <<< 4)) ∧
    (let steps : Word :=
        (match s.rx.step with
          | .idle => 0#32
          | .peak1 => 1#32
          | .peak2 => 2#32
          | .headerDemod => 3#32
          | .cohS1 => 4#32
          | .cohS2 => 5#32
          | .payloadFirst => 6#32
          | .payloadDemod => 7#32
          | .waitReedSolomon => 8#32
          | .aborted => 9#32) |||
        (((match s.rx.sub with
          | .none => 0#32
          | .std => 1#32
          | .oneBeforeLast => 2#32
          | .last => 3#32) : Word) <<< 4)
     got 0x0035#16 (steps ||| (BitVec.ofNat 32 (s.rx.ctl.elim 0 RxControl.blk) <<< 6)) ∧
     (s.BlockNumbered →
       (s.rx.step ∈ [.idle, .peak1, .peak2, .headerDemod, .cohS1, .cohS2] ∨
         ∃ r ∈ s.rx.ctl, r.ack = true) →
       got 0x0035#16 steps)) ∧
    got 0x0036#16
      ((match s.noise.step with
          | .idle => 0#32
          | .adaptGain => 1#32
          | .firstPass => 2#32
          | .intermediatePass => 3#32
          | .secondPass => 4#32) ||| (s.noise.k.setWidth 32 <<< 8)) ∧
    got 0x0037#16 s.glob.timeMs ∧
    (∀ c : Fin 128, c.val < Config.total s.glob.band →
      got (BitVec.ofNat 16 (0x100 + c.val)) s.noise.power[c.val] ∧
      got (BitVec.ofNat 16 (0x180 + c.val))
        (BitVec.ofNat 32 (dbOf Config.cfg.dbLut s.noise.power[c.val].toNat))) ∧
    ∀ id : BitVec 16,
      id.toNat ∉ [0x00, 0x01, 0x02, 0x03, 0x10, 0x11, 0x12, 0x13, 0x14, 0x20, 0x21, 0x22, 0x23,
        0x24, 0x25, 0x26, 0x27, 0x28, 0x29, 0x2A, 0x30, 0x31, 0x32, 0x33, 0x34, 0x35, 0x36,
        0x37] →
      ¬(0x100 ≤ id.toNat ∧ id.toNat < 0x100 + Config.total s.glob.band) →
      ¬(0x180 ≤ id.toNat ∧ id.toNat < 0x180 + Config.total s.glob.band) →
      exec (.getParam id) s = .next (s.withResult 7#32)

/-- SET_PARAM LEGACY_MODE (R361), FORCE_NO_OUTPUT (R363), NOISE_INTERVAL_MS (R364), STATS_CLEAR
(R365), and any id SET_PARAM cannot write (R366), with v the value in PARAM_DATA. -/
def Obligations.SetParamSettings : Prop :=
  ∀ s : State,
    let v := s.win.paramData
    exec (.setParam 0x0010#16) s =
      .next { s.withResult 0#32 with glob := { s.glob with legacyMode := v.getLsbD 0 } } ∧
    exec (.setParam 0x0012#16) s =
      .next { s.withResult 0#32 with glob := { s.glob with forceNoOutput := v.getLsbD 0 } } ∧
    (v = 0#32 → exec (.setParam 0x0013#16) s = .next (s.withResult 7#32)) ∧
    (v ≠ 0#32 → exec (.setParam 0x0013#16) s =
      .next { s.withResult 0#32 with
        glob := { s.glob with noiseIntervalMs := v, noiseDueMs := s.glob.timeMs + v } }) ∧
    exec (.setParam 0x002F#16) s =
      .next { s.withResult 0#32 with stats := Vector.replicate 11 0#32 } ∧
    ∀ id : BitVec 16, id.toNat ∉ [0x00, 0x01, 0x02, 0x03, 0x10, 0x11, 0x12, 0x13, 0x2F] →
      exec (.setParam id) s = .next (s.withResult 7#32)

/-- SET_PARAM STATIC_NOTCH_Wk: refused while RX is not Idle or TX not idle of an initialised block;
else bit j of word k becomes carrier 32k + j, the other words stay, and an initialised block clears
the bits of carriers the band does not have (R360, R100). -/
def Obligations.SetStaticNotch : Prop :=
  ∀ (k : Fin 4) (s : State),
    let set := exec (.setParam (BitVec.ofNat 16 k.val)) s
    (s.glob.initialised = true → s.rx.step ≠ .idle → set = .next (s.withResult 3#32)) ∧
    (s.glob.initialised = true → s.rx.step = .idle → ¬(s.tx.step = .idle ∧ s.tx.pend = none) →
      set = .next (s.withResult 2#32)) ∧
    ((s.glob.initialised = false ∨
        s.rx.step = .idle ∧ s.tx.step = .idle ∧ s.tx.pend = none) →
      ∃ m : Mask, set = .next { s.withResult 0#32 with glob := { s.glob with staticNotch := m } } ∧
        ∀ c, c < 128 → m.getLsbD c =
          ((if c / 32 = k.val then s.win.paramData.getLsbD (c % 32)
            else s.glob.staticNotch.getLsbD c) &&
          (!s.glob.initialised || decide (c < Config.total s.glob.band))))

/-- SET_PARAM IMPEDANCE of an initialised block, for every configuration: a reserved state code, a
reserved bit or a gain outside the state's bounds is INVALID_PARAM, whatever TX does; a valid value
is BUSY_TX unless TX is idle; else state, auto-detect and gain are taken from the value and
last_rms is kept (R362). `exec` is this function at the machine's configuration. -/
def Obligations.SetImpedance : Prop :=
  (∀ s, exec (.setParam 0x0011#16) s = .next (s.setParamWord Config.cfg 0x0011#16)) ∧
  ∀ (c : Cfg) (s : State), s.glob.initialised = true →
    let v := s.win.paramData
    let gain := (v.extractLsb' 8 8).toNat
    let result := s.setParamWord c 0x0011#16
    (v.extractLsb' 0 2 = 3#2 ∨ v &&& 0xFFFF00F8#32 ≠ 0#32 → result = s.withResult 7#32) ∧
    ∀ i : ImpState,
      (v.extractLsb' 0 2 = match i with
        | .high => 0#2
        | .low => 1#2
        | .vlo => 2#2) → v &&& 0xFFFF00F8#32 = 0#32 →
      (gain < c.gmin i ∨ c.gmax i < gain → result = s.withResult 7#32) ∧
      (c.gmin i ≤ gain → gain ≤ c.gmax i → ¬(s.tx.step = .idle ∧ s.tx.pend = none) →
        result = s.withResult 2#32) ∧
      (c.gmin i ≤ gain → gain ≤ c.gmax i → s.tx.step = .idle → s.tx.pend = none →
        result = { s.withResult 0#32 with
          imp :=
            { coupling := i, gain := v.extractLsb' 8 8, autoDetect := v.getLsbD 2,
              lastRms := s.imp.lastRms } })

/-! ## Carrier map and FCH codec -/

/-- Bit c of `inactive_mask(tm)` is set exactly for the carriers of the band whose tone-map bit
c div SUB(b) is 0 (R151); the active count and the excluded carriers of the band add up to TOTAL(b)
(R152, R156), and coherent frames give up PILOTS(b, n) of them (R153). The first and the last used
carrier of a mask are the lowest and the highest carrier of the band that it leaves, or 0xFF when
it leaves none (R154). -/
def Obligations.CarrierCounts : Prop :=
  (∀ (b : Band) (mask : Mask),
    ((∀ i, i < Config.total b → mask.getLsbD i = true) →
      firstUsedCarrier b mask = 0xFF ∧ lastUsedCarrier b mask = 0xFF) ∧
    ∀ u, u < Config.total b →
      (firstUsedCarrier b mask = u ↔
        mask.getLsbD u = false ∧ ∀ i, i < u → mask.getLsbD i = true) ∧
      (lastUsedCarrier b mask = u ↔
        mask.getLsbD u = false ∧ ∀ i, u < i → i < Config.total b → mask.getLsbD i = true)) ∧
  ∀ (c : Cfg) (b : Band) (tm : ToneMap) (static : Mask),
    (∀ i, (inactiveMask b tm).getLsbD i =
      (decide (i < Config.total b) && !tm.getLsbD (i / Config.sub b))) ∧
    (let excluded := (List.range (Config.total b)).countP fun i =>
        (inactiveMask b tm).getLsbD i || static.getLsbD i
     let n := activeCarrierCount b (inactiveMask b tm) static
     n + popcount ((inactiveMask b tm ||| static) &&& fullMask b) = Config.total b ∧
     n + excluded = Config.total b ∧
     payloadCarrierCount c b tm static .differential = n ∧
     payloadCarrierCount c b tm static .coherent = n - c.pilots b n)

/-- `nsym` and `cap` are the formulas of R186, and `nsym` is the least number of symbols that holds n
bytes; MAXPAY's values (R187); a frame's FLb is `nsym` of its larger block with parity, its padded
length what FLb symbols hold, at most 255, without the parity (R189); and a frame's blocks add up to
its length, are no longer than the padded length, and fit an RS block with their parity, the later
block being the shorter one (R188, R189, R197). -/
def Obligations.LengthArithmetic : Prop :=
  (∀ (n f : Nat) (m : Modulation) (npc : Nat), npc ≠ 0 →
    (nsym n m npc = match m with
      | .robo => (32 * n + npc - 1) / npc
      | .bpsk => (8 * n + npc - 1) / npc
      | .qpsk => (8 * n + 2 * npc - 1) / (2 * npc)
      | .psk8 => (8 * n + 3 * npc - 1) / (3 * npc)) ∧
    (cap f m npc = match m with
      | .robo => f * npc / 32
      | .bpsk => f * npc / 8
      | .qpsk => 2 * f * npc / 8
      | .psk8 => 3 * f * npc / 8) ∧
    n ≤ cap (nsym n m npc) m npc ∧ (n ≤ cap f m npc → nsym n m npc ≤ f)) ∧
  (∀ (b : Band) (m : Modulation), maxpay b m =
    match b, m with
    | .cenelecA, .robo => 248
    | .cenelecB, .robo => 248
    | .fcc, .robo => 496
    | .arib, .robo => 496
    | .cenelecA, _ => 240
    | .cenelecB, _ => 240
    | .fcc, _ => 480
    | .arib, _ => 480) ∧
  ∀ (b : Band) (m : Modulation) (len npc : Nat), npc ≠ 0 → 1 ≤ len → len ≤ maxpay b m →
    let f := frameLength b len m npc
    f.blocks.sum = len ∧ f.fl = f.blocks.length * f.flb ∧
      f.flb = nsym (f.blocks.headD 0 + Config.parity m) m npc ∧
      f.lb = min (cap f.flb m npc) 255 - Config.parity m ∧
      (f.blocks = [len] ∨ f.blocks = [(len + 1) / 2, len / 2]) ∧
      (f.blocks.length = 2 ↔ (b = .fcc ∨ b = .arib) ∧ 255 < len + Config.parity m) ∧
      f.lb + Config.parity m ≤ 255 ∧ ∀ n ∈ f.blocks, n ≤ f.lb

/-- The FCH on the wire. An encoded data record holds each field of Tables 41-1 and 41-2 at its
positions, most significant bit first, with the CRC of R183 and a zero tail (R171, R173, R174,
R184, R191). Decoding follows the steps of R193: CRC, tail, ACK/NACK, then the checks of a data
header. And decoding the FCH of a data frame the block can send gives back its modulation, scheme,
delimiter, PDC, tone map and frame length, and blocks of the padded length, none shorter than what
they carry: for every band, configuration, tone map and static notch with payload carriers, every
length whose FL fits, and a MIN_PAYLOAD the frame reaches (R195). -/
def Obligations.FchRoundTrip : Prop :=
  (∀ (b : Band) (x : FchFields),
    let raw := encodeData b x
    raw.length = Config.fchLen b ∧ RecordSealed b raw ∧ RecordNames b raw x.mod x.dt x.sch ∧
    recordField raw 0 8 = x.pdc.toNat ∧ recordField raw 10 9 = x.fl % 512 ∧
    match Config.layout b with
    | .cen => recordField raw 19 6 = x.tm.toNat % 64
    | .fa =>
      recordField raw 19 24 = x.tm.toNat ∧ recordField raw 46 1 = 0 ∧
        recordField raw 47 1 = x.rsb.toNat ∧ recordField raw 48 10 = 0) ∧
  (∀ (c : Cfg) (b : Band) (static : Mask) (raw : List Byte), raw.length = Config.fchLen b →
    (¬RecordSealed b raw → decodeFch c b raw static = none) ∧
    ∀ m dt sch, RecordSealed b raw → RecordNames b raw m dt sch →
      let pdc := BitVec.ofNat 8 (recordField raw 0 8)
      let fl := recordField raw 10 9
      let tm := BitVec.ofNat 24 (recordField raw 19 (match Config.layout b with
        | .cen => 6
        | .fa => 24))
      let npc := payloadCarrierCount c b tm static sch
      let two := Config.layout b = .fa ∧ recordField raw 47 1 = 1
      let flb := if two then fl / 2 else fl
      let bytes := min (cap flb m npc) 255
      let good := tm >>> Config.tmBits b = 0#24 ∧ npc ≠ 0 ∧ ¬(two ∧ fl % 2 = 1) ∧
        flb ≤ nsym 255 m npc ∧ c.minPayload + Config.parity m + 1 ≤ bytes
      ((dt = .ack ∨ dt = .nack) →
        decodeFch c b raw static = some (.control dt pdc m sch)) ∧
      (dt = .dataNoResp ∨ dt = .dataResp →
        (good → decodeFch c b raw static =
          some (.data dt pdc m sch tm fl flb
            (List.replicate (if two then 2 else 1) (bytes - Config.parity m)) npc)) ∧
        (¬good → decodeFch c b raw static = none))) ∧
  ∀ (c : Cfg) (b : Band) (m : Modulation) (sch : Scheme) (dt : Delimiter) (pdc : BitVec 8)
    (tm : ToneMap) (static : Mask) (len : Nat), (dt = .dataNoResp ∨ dt = .dataResp) →
    tm >>> Config.tmBits b = 0#24 →
    let npc := payloadCarrierCount c b tm static sch
    let f := frameLength b len m npc
    npc ≠ 0 → 1 ≤ len → len ≤ maxpay b m → f.fl ≤ 511 → c.minPayload + 1 ≤ f.lb →
    decodeFch c b
        (encodeData b
          { pdc := pdc, mod := m, sch := sch, dt := dt, tm := tm, fl := f.fl,
            rsb := decide (f.blocks.length = 2) }) static =
      some (.data dt pdc m sch tm f.fl f.flb (List.replicate f.blocks.length f.lb) npc) ∧
    ∀ n ∈ f.blocks, n ≤ f.lb

/-- Flipping any one bit of an FCH the block encodes, for a data frame or from caller bytes, makes
decode fail, whatever the configuration and the static notch (R196). -/
def Obligations.SingleBitErrorsDetected : Prop :=
  ∀ (c : Cfg) (b : Band) (static : Mask) (p : Nat), p < 8 * Config.fchLen b →
    (∀ x : FchFields, decodeFch c b (flipBit (encodeData b x) p) static = none) ∧
    ∀ raw : List Byte, raw.length = Config.fchLen b →
      decodeFch c b (flipBit (encodeAck b raw) p) static = none

/-! ## TX machine -/

/-- TX_SYMBOL in a frame whose next symbol begins no block moves on by one symbol and gives its
configuration, whatever txok is; the notch goes with preamble and header symbols only. When the
next symbol begins block k, a ready chain is given the block first (after a chain reset for
block 1); a chain that is not ready ends the frame with a pending TIMEOUT (R265, R264, R273,
R274). -/
def Obligations.TxSymbolAdvances : Prop :=
  ∀ (s : State) (t : TxControl) (cur nxt : TxSym) (rxok : Bool), s.glob.initialised = true →
    s.irqPending = 0#9 → s.tx.step ≠ .idle → s.tx.step ≠ .cancelled → s.tx.ctl = some t →
    t.seq[t.pos]? = some cur → cur ≠ .fin → t.seq[t.pos + 1]? = some nxt →
    ((∀ k, nxt ≠ .pay k 1) → ∀ txok,
      exec (.evIrq 0x004#9 txok rxok) s =
        .next { s.withResult 0#32 with
          tx := { s.tx with
            step := stepOfSym t.flb nxt
            ctl := some { t with pos := t.pos + 1 } }
          feOut := s.feOut ++
            [.txCfg nxt
              (match nxt with
                | .pre _ => if s.noise.notchActive then some s.noise.notchCarrier else none
                | .hdr _ => if s.noise.notchActive then some s.noise.notchCarrier else none
                | _ => none)] }) ∧
    ∀ k, nxt = .pay k 1 →
      exec (.evIrq 0x004#9 true rxok) s =
        .next { s.withResult 0#32 with
          tx := { s.tx with
            step := .payloadFirst
            ctl := some { t with pos := t.pos + 1 } }
          feOut := s.feOut ++ (if k = 1 then [.txChainReset] else []) ++
            [.txBlock k (t.blks.getD k []) t.parity, .txCfg nxt none] } ∧
      exec (.evIrq 0x004#9 false rxok) s =
        .next { s.withResult 0#32 with
          tx :=
            { step := .idle
              ctl := none
              pend := some
                { code := .timeout, t := s.glob.timeMs, rms := 0#32, adapt := false,
                  pwr := 0#4 } }
          stats := s.stats.set 9 (s.stats[9] + 1#32)
          feOut := s.feOut ++ [.txAbort] }

/-- The states that name the symbols of a sequence (R262). -/
def Obligations.SymbolStates : Prop :=
  ∀ flb k j : Nat,
    stepOfSym flb (.pre 1) = .preambleFirst ∧ stepOfSym flb (.pre 2) = .preambleLast ∧
    stepOfSym flb (.hdr 1) = .headerFirst ∧ (2 ≤ j → stepOfSym flb (.hdr j) = .header) ∧
    stepOfSym flb (.sync 1) = .cohSync ∧ stepOfSym flb (.sync 2) = .cohSync ∧
    stepOfSym flb (.pay k 1) = .payloadFirst ∧
    (2 ≤ flb → stepOfSym flb (.pay k flb) = .payloadLast) ∧
    (1 < j → j < flb → stepOfSym flb (.pay k j) = .payload) ∧
    stepOfSym flb .fin = .endSymbol

/-- TX_SYMBOL that consumes the END symbol puts the SUCCESS confirmation, with the RMS measured
now, into the slot and counts TX_OK (R272); in Idle and Cancelled it is ignored (R275). -/
def Obligations.TxFrameEnds : Prop :=
  ∀ (s : State) (txok rxok : Bool), s.glob.initialised = true → s.irqPending = 0#9 →
    (∀ t, s.tx.step ≠ .idle → s.tx.step ≠ .cancelled → s.tx.ctl = some t →
      t.seq[t.pos]? = some .fin →
      exec (.evIrq 0x004#9 txok rxok) s =
        .next { s.withResult 0#32 with
          tx :=
            { step := .idle
              ctl := none
              pend := some
                { code := .success, t := s.glob.timeMs, rms := s.win.feRms, adapt := !t.noadapt,
                  pwr := t.pwr } }
          stats := s.stats.set 0 (s.stats[0] + 1#32) }) ∧
    (s.tx.step = .idle ∨ s.tx.step = .cancelled →
      exec (.evIrq 0x004#9 txok rxok) s = .next (s.withResult 0#32))

/-- CS_PEAK. In a pre-payload state it cancels the frame (R277); in a payload state it does nothing
at all (R278); in the others it aborts a running capture (R225) and then, as after a collision,
arms an idle receiver with a watchdog base of now (R301) and leaves a running reception alone
(R302). -/
def Obligations.CsPeak : Prop :=
  ∀ (s : State) (txok rxok : Bool), s.glob.initialised = true → s.irqPending = 0#9 →
    let peak := exec (.evIrq 0x002#9 txok rxok) s
    let noise :=
      if s.noise.step = .idle then s.noise else { s.noise with step := .idle, k := 0#8 }
    let captureAbort := if s.noise.step = .idle then [] else [FeRecord.captureAbort]
    (s.tx.step ∈ [.preambleFirst, .preambleLast, .headerFirst, .header, .cohSync] →
      s.rx.step = .idle → ∃ r : RxControl, r.start = s.glob.timeMs ∧
      peak = .next { s.withResult 0#32 with
        tx :=
          { step := .cancelled
            ctl := none
            pend := some
              { code := .busyRx, t := s.glob.timeMs, rms := 0#32, adapt := false, pwr := 0#4 } }
        stats := s.stats.set 2 (s.stats[2] + 1#32)
        noise := noise
        rx := { step := .peak1, sub := .none, ctl := some r }
        feOut := s.feOut ++ [.txAbort] ++ captureAbort ++ [.rxArm] }) ∧
    (s.tx.step ∈ [.payloadFirst, .payload, .payloadLast, .endSymbol] →
      peak = .next (s.withResult 0#32)) ∧
    (s.tx.step ∈ [.idle, .cancelled] → s.rx.step = .idle →
      ∃ r : RxControl, r.start = s.glob.timeMs ∧
      peak = .next { s.withResult 0#32 with
        noise := noise
        rx := { step := .peak1, sub := .none, ctl := some r }
        feOut := s.feOut ++ captureAbort ++ [.rxArm] }) ∧
    (s.tx.step ∈ [.idle, .cancelled] → s.rx.step ≠ .idle →
      peak = .next { s.withResult 0#32 with
        noise := noise
        feOut := s.feOut ++ captureAbort })

/-- From acceptance to the pending SUCCESS a frame takes exactly 2 + NFCH(b) + 2·[coherent data] +
FL + 1 TX_SYMBOL events: after fewer it is on the air with no confirmation, after that many its
SUCCESS waits with the RMS measured at the end, and TX_OK is one more (R282, R459). -/
def Obligations.FrameRunsToConfirmation : Prop :=
  ∀ (mod : Modulation) (sch : Scheme) (dt : Delimiter) (pwr : BitVec 4) (noadapt imm : Bool)
    (len : BitVec 9) (s t : State), s.irqPending = 0#9 →
    exec (.transmit mod sch dt pwr noadapt imm len) s = .next t → t.win.result = 1#32 →
    let npc := payloadCarrierCount Config.cfg s.glob.band s.win.txTonemap s.glob.staticNotch sch
    let fl := if dt.isControl then 0 else (frameLength s.glob.band len.toNat mod npc).fl
    let sync := if dt.isControl = false ∧ sch = .coherent then 2 else 0
    let n := 2 + Config.nfch s.glob.band + sync + fl + 1
    (∀ k, k < n → ∃ u, execAll (List.replicate k (irq .txSymbol)) t = .next u ∧
      u.tx.step.busy = true ∧ u.tx.pend = none ∧ u.hostOut = t.hostOut) ∧
    ∃ u, execAll (List.replicate n (irq .txSymbol)) t = .next u ∧
      u.tx =
        { step := .idle
          ctl := none
          pend := some
            { code := .success, t := t.glob.timeMs, rms := t.win.feRms, adapt := !noadapt,
              pwr := pwr } } ∧
      u.stats = t.stats.set 0 (t.stats[0] + 1#32) ∧ u.hostOut = t.hostOut

/-! ## RX machine -/

/-- The events that carry a reception on: RX_SYNC in Peak1 (R303), RX_NOPEAK2 in Peak1 (R305),
RX_BUF in Peak2 (R309), CohS1 (R314) and CohS2 (R315, R316), and RX_BUF with a chain error in any
receiving state (R307). That the chain error leaves sub-state 0 in Aborted is the model's reading
(log 7, DEDUCED from R49). -/
def Obligations.RxAdvances : Prop :=
  ∀ (s : State) (r : RxControl) (txok rxok : Bool), s.glob.initialised = true →
    s.irqPending = 0#9 → s.rx.ctl = some r →
    (s.rx.step = .peak1 → exec (.evIrq 0x008#9 txok rxok) s =
      .next { s.withResult 0#32 with
        rx := { step := .peak2, sub := .none, ctl := some { r with rxTime := s.glob.timeMs } }
        feOut := s.feOut ++ [.rxCapture (.preamble 1)] }) ∧
    (s.rx.step = .peak1 → exec (.evIrq 0x010#9 txok rxok) s =
      .next { s.withResult 0#32 with
        rx := { step := .idle, sub := .none, ctl := none }
        stats := s.stats.set 6 (s.stats[6] + 1#32) }) ∧
    (s.rx.step = .peak2 → exec (.evIrq 0x020#9 txok true) s =
      .next { s.withResult 0#32 with
        rx := { step := .headerDemod, sub := .none, ctl := some r }
        feOut := s.feOut ++ [.rxCapture (.header (Config.nfch s.glob.band))] }) ∧
    (s.rx.step = .cohS1 → exec (.evIrq 0x020#9 txok true) s =
      .next { s.withResult 0#32 with
        rx := { step := .cohS2, sub := .none, ctl := some r }
        feOut := s.feOut ++ [.rxCapture (.sync 2)] }) ∧
    (s.rx.step = .cohS2 → exec (.evIrq 0x020#9 txok true) s =
      .next { s.withResult 0#32 with
        rx :=
          { step := .payloadFirst
            sub := .none
            ctl := some { r with
              blk := 0
              rem := r.flb
              buf := r.buf.set 0 []
              bufRest := r.bufRest.set 0 []
              chunk := chunkOf Config.cfg.rxBlock r.flb } }
        feOut := s.feOut ++ [.rxCapture (.pay 0 (chunkOf Config.cfg.rxBlock r.flb))] }) ∧
    (s.rx.step.receiving = true → exec (.evIrq 0x020#9 txok false) s =
      .next { s.withResult 0#32 with
        rx := { step := .aborted, sub := .none, ctl := some r }
        stats := s.stats.set 9 (s.stats[9] + 1#32) })

/-- Capture and reception races: a second sync (R304), a false candidate after the sync (R306), a
buffer before it (R308) and RX_ABORT in any receiving state (R320) abort the reception with one
RX_ABORT count and no record; in Idle, WaitReedSolomon and Aborted all four events are ignored
(R307 for RX_BUF). That Aborted has sub-state 0 is the model's reading (log 7, DEDUCED from R49). -/
def Obligations.RxRaces : Prop :=
  ∀ (s : State) (txok rxok : Bool), s.glob.initialised = true → s.irqPending = 0#9 →
    let aborted : State := { s.withResult 0#32 with
      rx := { s.rx with step := .aborted, sub := .none }
      stats := s.stats.set 7 (s.stats[7] + 1#32) }
    (s.rx.step ∈ [.peak2, .headerDemod, .cohS1, .cohS2, .payloadFirst, .payloadDemod] →
      exec (.evIrq 0x008#9 txok rxok) s = .next aborted ∧
      exec (.evIrq 0x010#9 txok rxok) s = .next aborted) ∧
    (s.rx.step = .peak1 → s.rx.ctl ≠ none →
      exec (.evIrq 0x020#9 txok true) s = .next aborted) ∧
    (s.rx.step.receiving = true → exec (.evIrq 0x040#9 txok rxok) s = .next aborted) ∧
    (s.rx.step ∈ [.idle, .waitReedSolomon, .aborted] →
      exec (.evIrq 0x008#9 txok rxok) s = .next (s.withResult 0#32) ∧
      exec (.evIrq 0x010#9 txok rxok) s = .next (s.withResult 0#32) ∧
      exec (.evIrq 0x020#9 txok rxok) s = .next (s.withResult 0#32) ∧
      exec (.evIrq 0x040#9 txok rxok) s = .next (s.withResult 0#32))

/-- RX_BUF in HeaderDemod decodes the header bytes in RXCAP under the static notch: a failure goes
to Idle with RX_BAD_CRC (R311), an ACK/NACK header to WaitReedSolomon (R312), a data header to the
sync symbols or to block 0 (R313, R316). For every configuration; `exec` is this function at the
machine's. -/
def Obligations.RxHeader : Prop :=
  (∀ s txok, exec (.evIrq 0x020#9 txok true) s =
    .next (s.irqWord Config.cfg 0x020#9 txok true)) ∧
  ∀ (c : Cfg) (s : State) (r : RxControl) (txok : Bool), s.glob.initialised = true →
    s.irqPending = 0#9 → s.rx.step = .headerDemod → s.rx.ctl = some r →
    let raw := s.mem.readBytes 0x300 (Config.fchLen s.glob.band)
    let result := s.irqWord c 0x020#9 txok true
    let header := decodeFch c s.glob.band raw s.glob.staticNotch
    (header = none → result =
      { s.withResult 0#32 with
        rx := { step := .idle, sub := .none, ctl := none }
        stats := s.stats.set 4 (s.stats[4] + 1#32) }) ∧
    (∀ dt pdc m sch, header = some (.control dt pdc m sch) → result =
      { s.withResult 0#32 with
        rx :=
          { step := .waitReedSolomon
            sub := .none
            ctl := some { r with
              evmHdr := s.win.feEvmHdr
              ack := true
              fch := raw
              mod := m
              sch := sch
              rssi := s.win.feRssi
              lqi := s.win.feLqi
              dur := s.glob.timeMs - r.rxTime } } }) ∧
    ∀ dt pdc m sch tm fl flb blen npc,
      header = some (.data dt pdc m sch tm fl flb blen npc) →
      let fields : RxControl := { r with
        evmHdr := s.win.feEvmHdr
        ack := false
        mod := m
        sch := sch
        tm := tm
        fl := BitVec.ofNat 9 fl
        nblk := blen.length
        flb := flb
        blen := blen
        buf := [[], []]
        bufRest := [[], []]
        out := []
        corr := 0#32
        rsNext := 0 }
      (sch = .coherent → result =
        { s.withResult 0#32 with
          rx := { step := .cohS1, sub := .none, ctl := some fields }
          feOut := s.feOut ++ [.rxCapture (.sync 1)] }) ∧
      (sch = .differential → result =
        { s.withResult 0#32 with
          rx :=
            { step := .payloadFirst
              sub := .none
              ctl := some { fields with blk := 0, rem := flb, chunk := chunkOf c.rxBlock flb } }
          feOut := s.feOut ++ [.rxCapture (.pay 0 (chunkOf c.rxBlock flb))] })

/-- RX_BUF with a payload chunk appends min(FE_RX_NBYTES, 512) bytes of RXCAP to the bytes received
of the block, whatever they are, and takes the chunk off the symbols left (R317). The first 512 of
them stand in `buf`, which holds no more (R50); that those R317 appends past them are kept beside it,
in `bufRest`, is the model's choice (log 9, DESIGN CHOICE). The next chunk is asked for under its
sub-state (R319); the end of block 0 of two starts block 1, any other end of a block goes to
WaitReedSolomon with the duration and the metrics (R318, R316). -/
def Obligations.RxPayloadChunk : Prop :=
  ∀ (s : State) (r : RxControl) (txok : Bool), s.glob.initialised = true →
    s.irqPending = 0#9 → (s.rx.step = .payloadFirst ∨ s.rx.step = .payloadDemod) →
    s.rx.ctl = some r →
    let B := Config.cfg.rxBlock
    let chunk := s.mem.readBytes 0x300 (min s.win.feRxNbytes.toNat 512)
    let rem := r.rem - r.chunk
    let n := chunkOf B rem
    let result := exec (.evIrq 0x020#9 txok true) s
    let bytes := r.blockBytes r.blk ++ chunk
    let buf := r.buf.set r.blk (bytes.take 512)
    let bufRest := r.bufRest.set r.blk (bytes.drop 512)
    (r.blk < r.buf.length → r.blk < r.bufRest.length →
      ({ r with buf := buf, bufRest := bufRest } : RxControl).blockBytes r.blk =
          r.buf.getD r.blk [] ++ r.bufRest.getD r.blk [] ++ chunk ∧
        (buf.getD r.blk []).length ≤ 512) ∧
    (rem ≠ 0 → result =
      .next { s.withResult 0#32 with
        rx :=
          { step := .payloadDemod
            sub := if n = rem then .last else if rem - n ≤ B then .oneBeforeLast else .std
            ctl := some { r with buf := buf, bufRest := bufRest, rem := rem, chunk := n } }
        feOut := s.feOut ++ [.rxCapture (.pay r.blk n)] }) ∧
    (rem = 0 → r.blk = 0 → r.nblk = 2 → result =
      .next { s.withResult 0#32 with
        rx :=
          { step := .payloadFirst
            sub := .none
            ctl := some { r with
              evmPay := s.win.feEvmPay
              rssi := s.win.feRssi
              lqi := s.win.feLqi
              blk := 1
              rem := r.flb
              buf := buf.set 1 []
              bufRest := bufRest.set 1 []
              chunk := chunkOf B r.flb } }
        feOut := s.feOut ++ [.rxCapture (.pay 1 (chunkOf B r.flb))] }) ∧
    (rem = 0 → ¬(r.blk = 0 ∧ r.nblk = 2) → result =
      .next { s.withResult 0#32 with
        rx :=
          { step := .waitReedSolomon
            sub := .none
            ctl := some { r with
              evmPay := s.win.feEvmPay
              rssi := s.win.feRssi
              lqi := s.win.feLqi
              buf := buf
              bufRest := bufRest
              rem := 0
              dur := s.glob.timeMs - r.rxTime } }
        feOut := s.feOut ++ [.rxDone] })

/-- The chunks of R322: the formula, and that the chunks a block of n symbols is received in add up
to n, that none is shorter than 1 or longer than RX_BLOCK, and that the final one has at least 3
symbols when the block has more than RX_BLOCK. -/
def Obligations.ChunkSchedule : Prop :=
  ∀ B, 3 ≤ B →
    (∀ R, 1 ≤ R →
      (R ≤ B → chunkOf B R = R) ∧ (B < R → R ≤ B + 2 → chunkOf B R = R - 3) ∧
      (B + 2 < R → chunkOf B R = B)) ∧
    ∀ n, 1 ≤ n →
      let chunks := chunkSchedule B n n
      chunks.sum = n ∧ (∀ k ∈ chunks, 1 ≤ k ∧ k ≤ B) ∧
      (B < n → ∃ l ∈ chunks.getLast?, 3 ≤ l)

/-- Reed-Solomon decoding at PROCESS, one block each, for every configuration: a failed or short
block counts RX_RS_ERR and drops the reception (R324); a block with more to come keeps the machine
waiting with RESULT PROCESS (R323, R369); after the last block the indication carries the recovered
payloads in order (R325). RsDecode is given all bytes received of the block (log 9). Where the
machine leaves WaitReedSolomon the later stages run as in a PROCESS on the state that is left.
`exec` is this function at the machine's configuration. -/
def Obligations.RxReedSolomon : Prop :=
  (∀ s, exec .process s = .next (s.processWord Config.cfg)) ∧
  ∀ (c : Cfg) (s : State) (r : RxControl), s.glob.initialised = true → s.tx.pend = none →
    s.rx.step = .waitReedSolomon → s.rx.ctl = some r → r.ack = false →
    let k := r.rsNext
    let blen := r.blen.getD k 0
    let decoded := c.rsDecode k (r.buf.getD k [] ++ r.bufRest.getD k [])
    ((decoded = none ∨ ∃ out n, decoded = some (out, n) ∧ out.length < blen) →
      s.processWord c = State.processWord c { s with
        rx := { step := .idle, sub := .none, ctl := none }
        stats := s.stats.set 5 (s.stats[5] + 1#32) }) ∧
    ∀ out n, decoded = some (out, n) → blen ≤ out.length →
      (k + 1 ≠ r.nblk → s.tx.step.busy = false → s.processWord c =
        { s.withResult 1#32 with
          rx :=
            { step := .waitReedSolomon
              sub := .none
              ctl := some { r with
                out := r.out ++ out.take blen
                corr := r.corr + BitVec.ofNat 32 n
                rsNext := k + 1 } } }) ∧
      (k + 1 = r.nblk → s.processWord c = State.processWord c { s with
        rx := { step := .idle, sub := .none, ctl := none }
        hostOut := s.hostOut ++ [.ind
          { payload := r.out ++ out.take blen
            length := BitVec.ofNat 32 (r.out ++ out.take blen).length
            modulation := r.mod
            scheme := r.sch
            toneMap := r.tm
            evmHeader := r.evmHdr
            evmPayload := r.evmPay
            rssi := r.rssi
            lqi := r.lqi
            rsCorrectedErrors := r.corr + BitVec.ofNat 32 n
            rxTime := r.rxTime
            frameDuration := r.dur }]
        stats := s.stats.set 3 (s.stats[3] + 1#32)
        lastLqi := r.lqi })

/-- PROCESS completes an aborted reception without a record (R321), and indicates an ACK/NACK
header without Reed-Solomon decoding (R326); then the later stages run as in a PROCESS on the state
that is left. -/
def Obligations.RxCompletes : Prop :=
  ∀ s : State, s.glob.initialised = true → s.tx.pend = none →
    (s.rx.step = .aborted → exec .process s =
      exec .process { s with rx := { step := .idle, sub := .none, ctl := none } }) ∧
    ∀ r, s.rx.step = .waitReedSolomon → s.rx.ctl = some r → r.ack = true →
      exec .process s = exec .process { s with
        rx := { step := .idle, sub := .none, ctl := none }
        hostOut := s.hostOut ++ [.ind
          { payload := r.fch
            length := match s.glob.band with
              | .cenelecA => 5#32
              | .cenelecB => 5#32
              | .fcc => 9#32
              | .arib => 9#32
            modulation := r.mod
            scheme := r.sch
            toneMap := 0#24
            evmHeader := r.evmHdr
            evmPayload := 0#32
            rssi := r.rssi
            lqi := r.lqi
            rsCorrectedErrors := 0#32
            rxTime := r.rxTime
            frameDuration := r.dur }]
        stats := s.stats.set 3 (s.stats[3] + 1#32)
        lastLqi := r.lqi }

/-! ## PROCESS -/

/-- PROCESS delivers a pending confirmation: the gain controller first, for SUCCESS with
adaptation, then the CONFIRM record; the slot is emptied and Cancelled left. The other stages run
as in a PROCESS on the state that is left (R367, R368, R244). -/
def Obligations.ProcessDelivers : Prop :=
  ∀ (s : State) (p : Pending), s.glob.initialised = true → s.tx.pend = some p →
    exec .process s = exec .process { s with
      imp :=
        if p.code = .success ∧ p.adapt = true then
          (let r := gainControl Config.cfg s.glob.band s.imp.coupling p.pwr.toNat p.rms.toNat
            s.imp.gain.toNat s.imp.autoDetect
           { coupling := r.1, gain := BitVec.ofNat 8 r.2, autoDetect := s.imp.autoDetect,
             lastRms := p.rms })
        else s.imp
      hostOut := s.hostOut ++ [.confirm p.code p.t p.rms]
      tx := { s.tx with
        pend := none
        step := if s.tx.step = .cancelled then .idle else s.tx.step } }

/-- PROCESS with no confirmation, no deferred RX work, no capture due and no watchdog due only
writes SUCCESS (R367, R369); and every PROCESS of an initialised block leaves the slot empty and
RESULT at PROCESS exactly when the RX machine waits for Reed-Solomon decoding (R369). -/
def Obligations.ProcessResult : Prop :=
  (∀ s : State, s.glob.initialised = true → s.tx.pend = none →
    s.rx.step ≠ .waitReedSolomon → s.rx.step ≠ .aborted →
    ¬(s.noise.step = .idle ∧ s.tx.step = .idle ∧ s.rx.step = .idle ∧
      0 ≤ (s.glob.timeMs - s.glob.noiseDueMs).toInt) →
    (s.tx.step.busy = true →
      ∀ t ∈ s.tx.ctl, (s.glob.timeMs - t.start).toInt < 1000) →
    (s.rx.step.receiving = true →
      ∀ r ∈ s.rx.ctl, (s.glob.timeMs - r.start).toInt < 1000) →
    exec .process s = .next (s.withResult 0#32)) ∧
  ∀ s t : State, s.glob.initialised = true → exec .process s = .next t →
    t.tx.pend = none ∧
      t.win.result = if t.rx.step = .waitReedSolomon then 1#32 else 0#32

/-- The watchdogs at PROCESS. A frame on the air 1000 ms past its start: counted reinitialisation,
TX_TIMEOUT, and a TIMEOUT confirmation outside the slot (R280). A receiving machine 1000 ms past
its CS_PEAK, no frame on the air: RX_TIMEOUT and counted reinitialisation without a record to the
host (R327). -/
def Obligations.WatchdogsFire : Prop :=
  ∀ s : State, s.glob.initialised = true → s.tx.pend = none →
    (∀ t, s.tx.step.busy = true → s.tx.ctl = some t → s.rx.step = .idle →
      1000 ≤ (s.glob.timeMs - t.start).toInt →
      exec .process s =
        .next { (s.freshPhy Config.cfg).withResult 0#32 with
          stats :=
            (s.stats.set 10 (s.stats[10] + 1#32)).set 1 (s.stats[1] + 1#32)
          hostOut := s.hostOut ++ [.confirm .timeout s.glob.timeMs 0#32] }) ∧
    ∀ r, s.rx.step.receiving = true → s.rx.ctl = some r → s.tx.step.busy = false →
      1000 ≤ (s.glob.timeMs - r.start).toInt →
      exec .process s =
        .next { (s.freshPhy Config.cfg).withResult 0#32 with
          stats :=
            (s.stats.set 8 (s.stats[8] + 1#32)).set 10 (s.stats[10] + 1#32) }

/-! ## Gain controller -/

/-- The gain controller under a valid configuration. Under auto-detect the state changes by the
comparisons of R241: HIGH goes to LOW below T_HL, LOW to HIGH above T_LH and else to VLO below T_LV,
VLO to LOW above T_VL, and no other RMS moves it. Without auto-detect it never changes. A changed
state sets its initial gain (R242), and the RMS that changed it does not take the machine back; HIGH
and VLO are never adjacent. An unchanged state tracks the gain: one step down above TARGET + TOL,
one step up below TARGET - TOL, both stopped at the state's bounds, and else unchanged (R243). -/
def Obligations.GainHysteresis : Prop :=
  ∀ (c : Cfg) (b : Band) (s : ImpState) (p rms g : Nat) (auto : Bool), c.Valid → p < 16 →
    c.gmin s ≤ g → g ≤ c.gmax s →
    let r := gainControl c b s p rms g auto
    (auto = false → r.1 = s) ∧
    (auto = true → r.1 = match s with
      | .high => if rms < c.tHL b p then .low else .high
      | .low => if c.tLH b p < rms then .high else if rms < c.tLV b p then .vlo else .low
      | .vlo => if c.tVL b p < rms then .low else .vlo) ∧
    (r.1 = s →
      (c.target b s p + c.tol < rms → r.2 = max (g - 1) (c.gmin s)) ∧
      (rms + c.tol < c.target b s p → r.2 = min (g + 1) (c.gmax s)) ∧
      (rms ≤ c.target b s p + c.tol → c.target b s p ≤ rms + c.tol → r.2 = g)) ∧
    (r.1 ≠ s → r.2 = c.ginit r.1 ∧ (gainControl c b r.1 p rms r.2 auto).1 ≠ s ∧
      (s = .low ∨ r.1 = .low)) ∧
    (r.1 = s → c.gmin s ≤ r.2 ∧ r.2 ≤ c.gmax s ∧ r.2 ≤ g + 1 ∧ g ≤ r.2 + 1)

/-! ## Noise capture and the notch -/

/-- PROCESS starts a noise capture when the controller, TX and RX are idle and the due time has
come: accumulator cleared, the next capture due one interval later, the gain setting asked for
(R211, R212). AGC_DONE then starts the first pass and is ignored in every other state (R213), as
CAPTURE_DONE is before a pass (R214). -/
def Obligations.CaptureStarts : Prop :=
  ∀ s : State, s.glob.initialised = true →
    (s.tx.pend = none → s.tx.step = .idle → s.rx.step = .idle → s.noise.step = .idle →
      0 ≤ (s.glob.timeMs - s.glob.noiseDueMs).toInt →
      exec .process s =
        .next { s.withResult 0#32 with
          noise := { s.noise with
            step := .adaptGain
            k := 0#8
            acc := Vector.replicate 128 0#32 }
          glob := { s.glob with noiseDueMs := s.glob.timeMs + s.glob.noiseIntervalMs }
          feOut := s.feOut ++ [.captureAgc] }) ∧
    ∀ txok rxok, s.irqPending = 0#9 →
      (s.noise.step = .adaptGain → exec (.evIrq 0x080#9 txok rxok) s =
        .next { s.withResult 0#32 with
          noise := { s.noise with step := .firstPass }
          feOut := s.feOut ++ [.capturePass 1] }) ∧
      (s.noise.step ≠ .adaptGain →
        exec (.evIrq 0x080#9 txok rxok) s = .next (s.withResult 0#32)) ∧
      (s.noise.step = .idle ∨ s.noise.step = .adaptGain →
        exec (.evIrq 0x100#9 txok rxok) s = .next (s.withResult 0#32))

/-- CAPTURE_DONE in a pass adds the band's CAPMEM words to the accumulator, saturating (R214), and
goes to the next pass (R215), or finishes: mean powers, the selected carrier notched or an active
notch cleared, back to Idle (R216, R224). For every configuration; `exec` is this function at the
machine's. -/
def Obligations.CaptureDone : Prop :=
  (∀ s txok rxok, exec (.evIrq 0x100#9 txok rxok) s =
    .next (s.irqWord Config.cfg 0x100#9 txok rxok)) ∧
  ∀ (c : Cfg) (s : State) (txok rxok : Bool), s.glob.initialised = true →
    s.irqPending = 0#9 →
    let done := s.irqWord c 0x100#9 txok rxok
    let nint := c.nint s.glob.band
    let acc : CarrierWords := Vector.ofFn fun i : Fin 128 =>
      if i.val < Config.total s.glob.band then
        BitVec.ofNat 32
          (min (s.noise.acc[i.val].toNat +
            (wordOfBytes (s.mem.readBytes (0x500 + 4 * i.val) 4)).toNat) (2 ^ 32 - 1))
      else s.noise.acc[i.val]
    let pass := fun (step : NoiseStep) (k idx : Nat) =>
      done = { s.withResult 0#32 with
        noise := { s.noise with step := step, k := BitVec.ofNat 8 k, acc := acc }
        feOut := s.feOut ++ [.capturePass idx] }
    (s.noise.step = .firstPass →
      (1 ≤ nint → pass .intermediatePass 1 2) ∧ (nint = 0 → pass .secondPass 0 (nint + 2))) ∧
    (s.noise.step = .intermediatePass →
      (s.noise.k.toNat < nint → pass .intermediatePass (s.noise.k.toNat + 1)
        (s.noise.k.toNat + 2)) ∧
      (nint ≤ s.noise.k.toNat → pass .secondPass 0 (nint + 2))) ∧
    (s.noise.step = .secondPass →
      let power : CarrierWords := Vector.ofFn fun i : Fin 128 =>
        if i.val < Config.total s.glob.band then
          BitVec.ofNat 32 (acc[i.val].toNat / (8 * (nint + 2)))
        else s.noise.power[i.val]
      let winner := selectNotch c s.glob.band s.glob.staticNotch fun i =>
        dbOf c.dbLut (power[i]?.getD 0#32).toNat
      done = { s.withResult 0#32 with
        noise :=
          { step := .idle
            k := 0#8
            acc := acc
            power := power
            notchCarrier := match winner with
              | some w => BitVec.ofNat 8 w
              | none => if s.noise.notchActive then 0#8 else s.noise.notchCarrier
            notchActive := winner.isSome }
        feOut := s.feOut ++ (match winner with
          | some w => [.notchSet (BitVec.ofNat 8 w)]
          | none => if s.noise.notchActive then [.notchClear] else []) })

/-- A capture takes exactly one AGC_DONE and NINT(b) + 2 CAPTURE_DONE events. With CAPMEM left
alone meanwhile, every pass adds the same words, so each carrier of the band ends with the mean of
what was accumulated; passes 1 to NINT(b) + 2 are asked for in order (R213 to R216). That NINT(b) fits the 8 bits of
st.noise_k is the model's reading (log 4, DEDUCED). -/
def Obligations.CaptureRunsToFinish : Prop :=
  ∀ s : State, s.glob.initialised = true → s.irqPending = 0#9 → s.noise.step = .adaptGain →
    let n := Config.cfg.nint s.glob.band + 2
    let run := fun k => execAll (irq .agcDone :: List.replicate k (irq .captureDone)) s
    (∀ k, k < n → ∃ u, run k = .next u ∧ u.noise.step ≠ .idle ∧ u.noise.step ≠ .adaptGain) ∧
    ∃ u, run n = .next u ∧ u.noise.step = .idle ∧ u.noise.k = 0#8 ∧
      (s.feOut ++ (List.range n).map fun i => .capturePass (i + 1)) <+: u.feOut ∧
      ∀ i : Fin 128, i.val < Config.total s.glob.band →
        u.noise.power[i.val] = BitVec.ofNat 32
          (min (s.noise.acc[i.val].toNat +
            n * (wordOfBytes (s.mem.readBytes (0x500 + 4 * i.val) 4)).toNat) (2 ^ 32 - 1) /
              (8 * n))

/-- `dB(p)` under any non-decreasing table of 97 values is the largest i with DB_LUT[i] ≤ p, or 0
below the table; under the default table it is min(96, floor(10·log10 p)), that is 10^i ≤ p^10
(R218, R217). -/
def Obligations.DecibelTable : Prop :=
  (∀ (lut : List Nat) (p : Nat), lut.length = 97 → lut.Pairwise (· ≤ ·) →
    dbOf lut p ≤ 96 ∧ (p < lut.getD 0 0 → dbOf lut p = 0) ∧
    (lut.getD 0 0 ≤ p → lut.getD (dbOf lut p) 0 ≤ p ∧
      ∀ i, i ≤ 96 → lut.getD i 0 ≤ p → i ≤ dbOf lut p)) ∧
  ∀ p, 1 ≤ p → p < 2 ^ 32 →
    10 ^ dbOf Config.defaultDbLut p ≤ p ^ 10 ∧
    (dbOf Config.defaultDbLut p < 96 → p ^ 10 < 10 ^ (dbOf Config.defaultDbLut p + 1))

/-- The selected notch carrier is a candidate of R222 with the greatest exceedance, the lowest such
carrier among equals (R223); none is selected exactly when there is no candidate (R219 to R222). -/
def Obligations.NotchSelection : Prop :=
  ∀ (c : Cfg) (b : Band) (static : Mask) (db : Nat → Nat),
    let inband := (List.range (Config.total b)).filter fun i => !static.getLsbD i
    let avg := (inband.map db).sum / inband.length
    let candidate := fun i : Nat =>
      i < Config.total b ∧ static.getLsbD i = false ∧ 1 ≤ i ∧ i + 2 ≤ Config.total b ∧
      c.absFloor ≤ db i ∧ avg + c.margin ≤ db i ∧
      ((c.derivThr : Int) ≤ 2 * (db i : Int) - db (i - 1) - db (i + 1) ∨
        2 ≤ i ∧ i + 3 ≤ Config.total b ∧
          (c.derivThr : Int) ≤ 2 * (db i : Int) - db (i - 2) - db (i + 2))
    let exceedance := fun i : Nat => (db i : Int) - ((avg + c.margin : Nat) : Int)
    (selectNotch c b static db = none ↔ ∀ i, ¬candidate i) ∧
    ∀ w, selectNotch c b static db = some w ↔
      candidate w ∧ ∀ i, candidate i →
        exceedance i < exceedance w ∨ (exceedance i = exceedance w ∧ w ≤ i)

/-- On a flat spectrum no carrier is a candidate, for any valid configuration and static notch
(R230). -/
def Obligations.FlatSpectrumNotNotched : Prop :=
  ∀ (c : Cfg) (b : Band) (static : Mask) (db : Nat → Nat) (d : Nat), c.Valid →
    (∀ i, i < Config.total b → db i = d) → selectNotch c b static db = none
end

