-- ==== Sys2Proof/Laws/Codec.lean ====
section
/-! SUPPORT. The bit strings of the FCH codec: a field reads back what was put into it, other
positions are left alone, and bytes carry their bits. -/

namespace Sys2Proof.Machine

/-! ## Numbers and bit strings -/

@[simp] theorem length_bitsOfNat (w v : Nat) : (bitsOfNat w v).length = w := by simp [bitsOfNat]

theorem getElem_bitsOfNat {w v i : Nat} (h : i < (bitsOfNat w v).length) :
    (bitsOfNat w v)[i] = v.testBit (w - 1 - i) := by simp [bitsOfNat]

theorem bitsOfNat_succ (w v : Nat) :
    bitsOfNat (w + 1) v = v.testBit w :: bitsOfNat w v := by
  refine List.ext_getElem (by simp) fun i h _ => ?_
  cases i with
  | zero => simp [bitsOfNat]
  | succ i =>
    simp only [bitsOfNat, List.getElem_map, List.getElem_range, List.getElem_cons_succ]
    congr 1
    omega

theorem natOfBits_append (xs ys : List Bool) :
    natOfBits (xs ++ ys) = natOfBits xs * 2 ^ ys.length + natOfBits ys := by
  have step : ∀ (bs : List Bool) (n : Nat),
      bs.foldl (fun n b => 2 * n + bitNat b) n = n * 2 ^ bs.length + natOfBits bs := by
    intro bs
    induction bs with
    | nil => intro n; simp [natOfBits]
    | cons b bs ih =>
      intro n
      have hb : natOfBits (b :: bs) = (2 * 0 + bitNat b) * 2 ^ bs.length + natOfBits bs := by
        rw [← ih]
        rfl
      rw [List.foldl_cons, ih, hb, List.length_cons, pow_succ]
      ring
  rw [natOfBits, List.foldl_append]
  exact step ys _

theorem natOfBits_cons (b : Bool) (bs : List Bool) :
    natOfBits (b :: bs) = bitNat b * 2 ^ bs.length + natOfBits bs := by
  have h := natOfBits_append [b] bs
  simpa [natOfBits] using h

theorem natOfBits_lt (bs : List Bool) : natOfBits bs < 2 ^ bs.length := by
  induction bs with
  | nil => simp [natOfBits]
  | cons b bs ih =>
    rw [natOfBits_cons, List.length_cons, pow_succ]
    cases b <;> simp only [bitNat] <;> simp <;> omega

/-- A number's low w bits read back as the number modulo 2^w. -/
theorem natOfBits_bitsOfNat (w v : Nat) : natOfBits (bitsOfNat w v) = v % 2 ^ w := by
  induction w with
  | zero => simp [bitsOfNat, natOfBits, Nat.mod_one]
  | succ w ih =>
    rw [bitsOfNat_succ, natOfBits_cons, ih, length_bitsOfNat, Nat.mod_pow_succ,
      Nat.testBit_eq_decide_div_mod_eq]
    rcases Nat.mod_two_eq_zero_or_one (v / 2 ^ w) with h | h <;> simp [h, bitNat]
    omega

/-! ## Fields -/

/-- Writing a field inside the string keeps its length. -/
theorem length_putBits {bits : List Bool} {q w v : Nat} (h : q + w ≤ bits.length) :
    (putBits bits q w v).length = bits.length := by
  simp only [putBits, List.length_append, List.length_take, length_bitsOfNat, List.length_drop]
  omega

theorem getElem?_putBits {bits : List Bool} {q w v : Nat} (h : q + w ≤ bits.length) (i : Nat) :
    (putBits bits q w v)[i]? =
      if q ≤ i ∧ i < q + w then some (v.testBit (w - 1 - (i - q))) else bits[i]? := by
  have hq : (bits.take q).length = q := by simp only [List.length_take]; omega
  rw [putBits, List.append_assoc]
  by_cases h1 : i < q
  · rw [List.getElem?_append_left (by omega), List.getElem?_take_of_lt h1, if_neg (by omega)]
  · rw [List.getElem?_append_right (by omega), hq]
    by_cases h2 : i < q + w
    · rw [List.getElem?_append_left (by rw [length_bitsOfNat]; omega), if_pos (by omega),
        List.getElem?_eq_getElem (by rw [length_bitsOfNat]; omega), getElem_bitsOfNat]
    · rw [List.getElem?_append_right (by rw [length_bitsOfNat]; omega), if_neg (by omega),
        length_bitsOfNat, List.getElem?_drop]
      congr 1
      omega

/-- Two strings that agree on a field's positions hold the same value in it. -/
theorem getBits_congr {xs ys : List Bool} {q w : Nat}
    (h : ∀ i, q ≤ i → i < q + w → xs[i]? = ys[i]?) : getBits xs q w = getBits ys q w := by
  rw [getBits, getBits]
  congr 1
  refine List.ext_getElem? fun i => ?_
  by_cases hi : i < w
  · rw [List.getElem?_take_of_lt hi, List.getElem?_take_of_lt hi, List.getElem?_drop,
      List.getElem?_drop, h (q + i) (by omega) (by omega)]
  · rw [List.getElem?_take, List.getElem?_take, if_neg hi, if_neg hi]

/-- A field reads back what was put into it, cut to its width. -/
theorem getBits_putBits {bits : List Bool} {q w v : Nat} (h : q + w ≤ bits.length) :
    getBits (putBits bits q w v) q w = v % 2 ^ w := by
  have hq : (bits.take q).length = q := by simp only [List.length_take]; omega
  have e : ((putBits bits q w v).drop q).take w = bitsOfNat w v := by
    rw [putBits, List.append_assoc, List.drop_append_of_le_length (by omega),
      List.drop_eq_nil_of_le (by omega), List.nil_append,
      List.take_append_of_le_length (by simp), List.take_of_length_le (by simp)]
  rw [getBits, e, natOfBits_bitsOfNat]

/-- A field apart from the one written keeps its value. -/
theorem getBits_putBits_of_disjoint {bits : List Bool} {q w v p u : Nat}
    (h : q + w ≤ bits.length) (hd : p + u ≤ q ∨ q + w ≤ p) :
    getBits (putBits bits q w v) p u = getBits bits p u :=
  getBits_congr fun i _ _ => by rw [getElem?_putBits h, if_neg (by omega)]

/-- The span below a field is left alone. -/
theorem take_putBits {bits : List Bool} {q w v n : Nat} (h : q + w ≤ bits.length) (hn : n ≤ q) :
    (putBits bits q w v).take n = bits.take n := by
  refine List.ext_getElem? fun i => ?_
  by_cases hi : i < n
  · rw [List.getElem?_take_of_lt hi, List.getElem?_take_of_lt hi, getElem?_putBits h,
      if_neg (by omega)]
  · rw [List.getElem?_take, List.getElem?_take, if_neg hi, if_neg hi]

/-! ## Bytes -/

theorem length_bitsOfBytes (bs : List Byte) : (bitsOfBytes bs).length = 8 * bs.length := by
  induction bs with
  | nil => rfl
  | cons b bs ih =>
    rw [bitsOfBytes] at ih ⊢
    rw [List.flatMap_cons, List.length_append, ih, length_bitsOfNat, List.length_cons]
    omega

/-- Eight bits, made a byte and read again. -/
theorem bits_of_byte : ∀ b0 b1 b2 b3 b4 b5 b6 b7 : Bool,
    bitsOfNat 8 (BitVec.ofNat 8 (natOfBits [b0, b1, b2, b3, b4, b5, b6, b7])).toNat =
      [b0, b1, b2, b3, b4, b5, b6, b7] := by decide

/-- Whole bytes carry their bits. -/
theorem bitsOfBytes_bytesOfBits (n : Nat) {bits : List Bool} (h : bits.length = 8 * n) :
    bitsOfBytes (bytesOfBits bits) = bits ∧ (bytesOfBits bits).length = n := by
  induction n generalizing bits with
  | zero => rw [List.length_eq_zero_iff.1 h]; exact ⟨rfl, rfl⟩
  | succ n ih =>
    match bits, h with
    | b0 :: b1 :: b2 :: b3 :: b4 :: b5 :: b6 :: b7 :: rest, h =>
      have hr : rest.length = 8 * n := by simp only [List.length_cons] at h; omega
      obtain ⟨h1, h2⟩ := ih hr
      rw [bitsOfBytes] at h1
      refine ⟨?_, by rw [bytesOfBits, List.length_cons, h2]⟩
      rw [bytesOfBits, bitsOfBytes, List.flatMap_cons, h1, bits_of_byte]
      rfl
    | [], h => simp at h
    | [_], h => simp only [List.length_cons, List.length_nil] at h; omega
    | [_, _], h => simp only [List.length_cons, List.length_nil] at h; omega
    | [_, _, _], h => simp only [List.length_cons, List.length_nil] at h; omega
    | [_, _, _, _], h => simp only [List.length_cons, List.length_nil] at h; omega
    | [_, _, _, _, _], h => simp only [List.length_cons, List.length_nil] at h; omega
    | [_, _, _, _, _, _], h => simp only [List.length_cons, List.length_nil] at h; omega
    | [_, _, _, _, _, _, _], h => simp only [List.length_cons, List.length_nil] at h; omega

/-! ## Length arithmetic -/

/-- `ceilDiv a b` is the least n with a ≤ n·b. -/
theorem ceilDiv_le_iff {a b n : Nat} (hb : 0 < b) : ceilDiv a b ≤ n ↔ a ≤ n * b := by
  rw [ceilDiv, Nat.div_le_iff_le_mul_add_pred hb, Nat.mul_comm]
  omega

theorem bpc_pos (m : Modulation) : 0 < bpc m := by cases m <;> decide

theorem rep_pos (m : Modulation) : 0 < rep m := by cases m <;> decide

end Sys2Proof.Machine
end

