-- ==== Sys2Proof/Laws/Config.lean ====
section
/-! SUPPORT. The machine's configuration satisfies Table 00-1, whatever its OPEN values are. -/

namespace Sys2Proof

namespace Config

theorem mem_bands (b : Band) : b ∈ bands := by cases b <;> decide

theorem mem_impStates (s : ImpState) : s ∈ impStates := by cases s <;> decide

theorem defaultDbLut_length : defaultDbLut.length = 97 := by decide

theorem defaultDbLut_sorted : defaultDbLut.Pairwise (· ≤ ·) := by decide

theorem defaultDbLut_lt : ∀ v ∈ defaultDbLut, v < 2 ^ 32 := by decide

@[simp] theorem cfg_dbLut : cfg.dbLut = defaultDbLut := rfl

/-- Table 00-1's gain bounds. -/
theorem cfg_gain (s : ImpState) :
    cfg.gmin s ≤ cfg.ginit s ∧ cfg.ginit s ≤ cfg.gmax s ∧ cfg.gmax s ≤ 255 := by
  simp only [cfg, gmin, ginit, gmax]
  omega

/-- Table 00-1's order of the impedance thresholds. -/
theorem cfg_thresholds (b : Band) (p : Nat) :
    cfg.tLV b p < cfg.tVL b p ∧ cfg.tVL b p ≤ cfg.tHL b p ∧ cfg.tHL b p < cfg.tLH b p := by
  simp only [cfg, tVL, tHL, tLH]
  omega

theorem cfg_nint (b : Band) :
    cfg.nint b ≤ 255 ∧ (hasIntermediate b = false → cfg.nint b = 0) := by
  constructor
  · simp only [cfg]; split <;> omega
  · intro h; simp [cfg, h]

theorem cfg_rxBlock : 3 ≤ cfg.rxBlock := by simp only [cfg]; omega

/-- The machine's configuration is one the block accepts. -/
theorem cfg_valid : cfg.Valid :=
  ⟨fun _ _ n _ => Nat.min_le_right _ n, fun b _ => cfg_nint b,
    ⟨defaultDbLut_length, defaultDbLut_sorted, defaultDbLut_lt⟩,
    ⟨Nat.le_add_left .., Nat.le_add_left ..⟩, fun b _ p _ => cfg_thresholds b p,
    fun s _ => cfg_gain s, cfg_rxBlock⟩

/-- The test-vector parameters satisfy Table 00-1 (R11, R12). -/
theorem tv_valid : tv.Valid :=
  ⟨fun _ _ _ _ => Nat.zero_le _, fun b _ => by cases b <;> decide,
    ⟨defaultDbLut_length, defaultDbLut_sorted, defaultDbLut_lt⟩, by decide,
    fun _ _ _ _ => (by decide : 500 < 700 ∧ 700 ≤ 1000 ∧ 1000 < 1400), by decide, by decide⟩

end Config

namespace Machine

/-- The block accepts its configuration; `configure` refuses exactly the invalid ones (R12). -/
theorem configure_cfg : configure Config.cfg = .next Config.cfg := if_pos Config.cfg_valid

theorem configure_invalid {c : Cfg} (h : ¬c.Valid) : configure c = .refused .invalidConfig :=
  if_neg h

end Machine

end Sys2Proof
end

