-- ==== Sys2Proof/Laws/Encoding.lean ====
section
/-! SUPPORT. The bits of the encodings, with the fields' widths kept apart so that
`BitVec.getLsbD_append` applies, and the codes of R122 to R125, which are read as they are
written. -/

namespace Sys2Proof

@[simp] theorem Band.ofCode_code (b : Band) : Band.ofCode b.code = b := by cases b <;> rfl

@[simp] theorem Modulation.ofCode_code (m : Modulation) : Modulation.ofCode m.code = m := by
  cases m <;> rfl

@[simp] theorem Scheme.ofBit_bit (s : Scheme) : Scheme.ofBit s.bit = s := by cases s <;> rfl

@[simp] theorem Delimiter.ofCode_code (d : Delimiter) : Delimiter.ofCode d.code = d := by
  cases d <;> rfl

theorem encode_transmit_getLsbD (m : Modulation) (s : Scheme) (d : Delimiter) (pwr : BitVec 4)
    (noadapt imm : Bool) (len : BitVec 9) (k : Nat) :
    (encode (.transmit m s d pwr noadapt imm len)).getLsbD k =
      (0x02#6 ++ m.code ++ BitVec.ofBool s.bit ++ d.code ++ pwr ++ BitVec.ofBool noadapt ++
        BitVec.ofBool imm ++ 0#6 ++ len).getLsbD k := rfl

theorem encode_getParam_getLsbD (id : BitVec 16) (k : Nat) :
    (encode (.getParam id)).getLsbD k = (0x03#6 ++ 0#10 ++ id).getLsbD k := rfl

theorem encode_setParam_getLsbD (id : BitVec 16) (k : Nat) :
    (encode (.setParam id)).getLsbD k = (0x04#6 ++ 0#10 ++ id).getLsbD k := rfl

theorem encode_evIrq_getLsbD (src : BitVec 9) (txok rxok : Bool) (k : Nat) :
    (encode (.evIrq src txok rxok)).getLsbD k =
      (0x20#6 ++ 0#8 ++ BitVec.ofBool rxok ++ BitVec.ofBool txok ++ 0#7 ++ src).getLsbD k := rfl

theorem encode_evTick_getLsbD (delta : BitVec 16) (k : Nat) :
    (encode (.evTick delta)).getLsbD k = (0x21#6 ++ 0#10 ++ delta).getLsbD k := rfl

end Sys2Proof
end

