-- ==== Sys2Proof/Laws/Memory.lean ====
section
/-! SUPPORT. What the window memory's operations do: a read after a write, the frame of a write,
and the canonical form, which every operation keeps. -/

namespace Sys2Proof.Machine.Memory

@[simp] theorem read_nil (a : Nat) : Memory.read [] a = unlisted := rfl

theorem read_cons (k : Nat) (v : Byte) (m : Memory) (a : Nat) :
    Memory.read ((k, v) :: m) a = if k = a then v else Memory.read m a := rfl

/-! ## Entries -/

theorem mem_consCell {a : Nat} {b : Byte} {m : Memory} {p : Nat × Byte}
    (h : p ∈ consCell a b m) : (p = (a, b) ∧ b ≠ unlisted) ∨ p ∈ m := by
  unfold consCell at h
  split at h
  · exact .inr h
  · rcases List.mem_cons.1 h with rfl | h
    · exact .inl ⟨rfl, ‹_›⟩
    · exact .inr h

/-- An entry after a write is the byte written, or an old entry. -/
theorem mem_write {m : Memory} {a : Nat} {b : Byte} {p : Nat × Byte}
    (h : p ∈ write m a b) : (p = (a, b) ∧ b ≠ unlisted) ∨ p ∈ m := by
  induction m with
  | nil => exact mem_consCell h
  | cons q m ih =>
    obtain ⟨k, v⟩ := q
    unfold write at h
    split at h
    · exact mem_consCell h
    · split at h
      · exact (mem_consCell h).imp_right (List.mem_cons_of_mem _)
      · rcases List.mem_cons.1 h with rfl | h
        · exact .inr List.mem_cons_self
        · exact (ih h).imp_right (List.mem_cons_of_mem _)

/-! ## The canonical form -/

theorem wf_nil : Memory.wf [] := by simp [wf]

theorem wf_tail {p : Nat × Byte} {m : Memory} (h : Memory.wf (p :: m)) : Memory.wf m :=
  ⟨(List.pairwise_cons.1 h.1).2, fun q hq => h.2 q (List.mem_cons_of_mem _ hq)⟩

theorem wf_cons {a : Nat} {b : Byte} {m : Memory} (hm : Memory.wf m) (hb : b ≠ unlisted)
    (ha : ∀ q ∈ m, a < q.1) : Memory.wf ((a, b) :: m) :=
  ⟨List.pairwise_cons.2 ⟨ha, hm.1⟩, fun q hq => by
    rcases List.mem_cons.1 hq with rfl | hq
    · exact hb
    · exact hm.2 q hq⟩

theorem wf_consCell {a : Nat} {b : Byte} {m : Memory} (hm : Memory.wf m)
    (ha : ∀ q ∈ m, a < q.1) : Memory.wf (consCell a b m) := by
  unfold consCell
  split
  · exact hm
  · exact wf_cons hm ‹_› ha

/-- A write keeps the canonical form. -/
theorem wf_write {m : Memory} (a : Nat) (b : Byte) (hm : Memory.wf m) :
    Memory.wf (write m a b) := by
  induction m with
  | nil => exact wf_consCell wf_nil (by simp)
  | cons q m ih =>
    obtain ⟨k, v⟩ := q
    have hk : ∀ q ∈ m, k < q.1 := (List.pairwise_cons.1 hm.1).1
    unfold write
    split
    · refine wf_consCell hm fun q hq => ?_
      rcases List.mem_cons.1 hq with rfl | hq
      · assumption
      · have := hk q hq; omega
    · split
      · subst a; exact wf_consCell (wf_tail hm) hk
      · refine wf_cons (ih (wf_tail hm)) (hm.2 _ List.mem_cons_self) fun q hq => ?_
        rcases mem_write hq with ⟨rfl, _⟩ | hq
        · simp only; omega
        · exact hk q hq

/-- Storing bytes keeps the canonical form. -/
theorem wf_writeBytes {m : Memory} (a : Nat) (bs : List Byte) (hm : Memory.wf m) :
    Memory.wf (writeBytes m a bs) := by
  induction bs generalizing m a with
  | nil => exact hm
  | cons b bs ih => exact ih (a + 1) (wf_write a b hm)

/-- An entry after storing bytes is at one of their addresses, or an old entry. -/
theorem mem_writeBytes {m : Memory} {a : Nat} {bs : List Byte} {p : Nat × Byte}
    (h : p ∈ writeBytes m a bs) : (a ≤ p.1 ∧ p.1 < a + bs.length) ∨ p ∈ m := by
  induction bs generalizing m a with
  | nil => exact .inr h
  | cons b bs ih =>
    rw [List.length_cons]
    rcases ih h with h | h
    · left; omega
    · rcases mem_write h with ⟨rfl, _⟩ | h
      · left; simp only; omega
      · exact .inr h

/-! ## Reading -/

theorem read_eq_unlisted {m : Memory} {a : Nat} (h : ∀ q ∈ m, q.1 ≠ a) :
    m.read a = unlisted := by
  induction m with
  | nil => rfl
  | cons q m ih =>
    obtain ⟨k, v⟩ := q
    rw [read_cons, if_neg (h _ List.mem_cons_self)]
    exact ih fun q hq => h q (List.mem_cons_of_mem _ hq)

theorem read_consCell {a : Nat} {b : Byte} {m : Memory} (ha : ∀ q ∈ m, a < q.1) (x : Nat) :
    (consCell a b m).read x = if a = x then b else m.read x := by
  unfold consCell
  split
  · next hb =>
    split
    · next hx =>
      subst hx hb
      exact read_eq_unlisted fun q hq => (ha q hq).ne'
    · rfl
  · exact read_cons ..

/-- A read after a write: the byte at its address, the old bytes everywhere else. -/
theorem read_write {m : Memory} (hm : Memory.wf m) (a : Nat) (b : Byte) (x : Nat) :
    (write m a b).read x = if a = x then b else m.read x := by
  induction m with
  | nil => exact read_consCell (by simp) x
  | cons q m ih =>
    obtain ⟨k, v⟩ := q
    have hk : ∀ q ∈ m, k < q.1 := (List.pairwise_cons.1 hm.1).1
    unfold write
    split
    · refine read_consCell (fun q hq => ?_) x
      rcases List.mem_cons.1 hq with rfl | hq
      · assumption
      · have := hk q hq; omega
    · split
      · subst a
        rw [read_consCell hk, read_cons]
        split <;> rfl
      · rw [read_cons, read_cons, ih (wf_tail hm)]
        split
        · rw [if_neg (by omega)]
        · rfl

/-- Storing bytes leaves every other byte alone. -/
theorem read_writeBytes_of_outside {m : Memory} (hm : Memory.wf m) {a : Nat} {bs : List Byte}
    {x : Nat} (hx : x < a ∨ a + bs.length ≤ x) : (writeBytes m a bs).read x = m.read x := by
  induction bs generalizing m a with
  | nil => rfl
  | cons b bs ih =>
    rw [List.length_cons] at hx
    rw [writeBytes, ih (wf_write a b hm) (by omega), read_write hm, if_neg (by omega)]

/-- Storing bytes stores them at rising addresses. -/
theorem read_writeBytes {m : Memory} (hm : Memory.wf m) {a : Nat} {bs : List Byte} {i : Nat}
    (hi : i < bs.length) : (writeBytes m a bs).read (a + i) = bs[i] := by
  induction bs generalizing m a i with
  | nil => exact absurd hi (Nat.not_lt_zero i)
  | cons b bs ih =>
    cases i with
    | zero =>
      rw [writeBytes, read_writeBytes_of_outside (wf_write a b hm) (by omega), read_write hm]
      simp
    | succ i =>
      rw [List.getElem_cons_succ, ← ih (wf_write a b hm) (Nat.lt_of_succ_lt_succ hi), writeBytes,
        show a + (i + 1) = a + 1 + i by omega]

end Sys2Proof.Machine.Memory
end

