-- ==== Sys2Proof/Laws/Operands.lean ====
section
/-! SUPPORT. The bits of carrier masks and of the static notch's words, and a word's bytes. -/

namespace Sys2Proof.Machine

/-! ## Carrier masks -/

theorem maskOf_succ (n : Nat) (p : Nat → Bool) :
    maskOf (n + 1) p = if p n then maskOf n p ||| BitVec.twoPow 128 n else maskOf n p := by
  rw [maskOf, List.range_succ, List.foldl_append]
  rfl

/-- Bit i of the mask of p below n. -/
theorem maskOf_getLsbD {n : Nat} (hn : n ≤ 128) (p : Nat → Bool) (i : Nat) :
    (maskOf n p).getLsbD i = (decide (i < n) && p i) := by
  induction n with
  | zero => simp [maskOf]
  | succ n ih =>
    rw [maskOf_succ]
    have hi := ih (by omega)
    by_cases hin : i = n
    · subst hin
      split
      · next hp => simp [hp]; omega
      · next hp => rw [hi]; simp [hp]
    · have e : decide (i < n + 1) = decide (i < n) := by
        rw [decide_eq_decide]; omega
      rw [e, ← hi]
      split
      · simp only [BitVec.getLsbD_or, BitVec.getLsbD_twoPow]
        simp [Ne.symm hin]
      · rfl

theorem total_le (b : Band) : Config.total b ≤ 128 := by cases b <;> decide

/-! ## Words of the static notch -/

theorem notchWord_getLsbD (m : Mask) (k : Fin 4) (j : Nat) :
    (notchWord m k).getLsbD j = (decide (j < 32) && m.getLsbD (32 * k.val + j)) := by
  rw [notchWord, BitVec.getLsbD_extractLsb']

/-- Bit c of the mask with word k replaced: the value's bit c - 32k in that word, the old bit in the
others. -/
theorem setNotchWord_getLsbD (m : Mask) (k : Fin 4) (v : Word) {c : Nat} (hc : c < 128) :
    (setNotchWord m k v).getLsbD c =
      if c / 32 = k.val then v.getLsbD (c % 32) else m.getLsbD c := by
  have ones : ∀ j, (0xFFFFFFFF#128).getLsbD j = decide (j < 32) := by
    intro j
    rw [show (0xFFFFFFFF#128) = BitVec.ofNat 128 (2 ^ 32 - 1) from rfl, BitVec.getLsbD_ofNat,
      Nat.testBit_two_pow_sub_one]
    by_cases h : j < 32
    · simp [h]; omega
    · simp [h]
  simp only [setNotchWord, BitVec.getLsbD_or, BitVec.getLsbD_and, BitVec.getLsbD_not,
    BitVec.getLsbD_shiftLeft, BitVec.getLsbD_setWidth, ones]
  have hk := k.isLt
  by_cases h : c / 32 = k.val
  · have h1 : ¬c < 32 * k.val := by omega
    have h2 : c - 32 * k.val = c % 32 := by omega
    have h3 : c % 32 < 32 := by omega
    have h4 : c % 32 < 128 := by omega
    simp [h, h1, h2, h3, h4, hc]
  · rw [if_neg h]
    by_cases h1 : c < 32 * k.val
    · simp [h1, hc]
    · have h2 : ¬c - 32 * k.val < 32 := by omega
      have h3 : v.getLsbD (c - 32 * k.val) = false := BitVec.getLsbD_of_ge _ _ (by omega)
      simp [h1, h2, h3, hc]

/-! ## A word's bytes -/

@[simp] theorem length_bytesOfWord (n : Nat) (v : Word) : (bytesOfWord n v).length = n := by
  simp [bytesOfWord]

theorem getElem_bytesOfWord {n : Nat} {v : Word} {i : Nat} (h : i < (bytesOfWord n v).length) :
    (bytesOfWord n v)[i] = v.extractLsb' (8 * i) 8 := by simp [bytesOfWord]

theorem wordOfBytes_getLsbD (bs : List Byte) {j : Nat} (hj : j < 32) :
    (wordOfBytes bs).getLsbD j = (bs.getD (j / 8) 0#8).getLsbD (j % 8) := by
  induction bs generalizing j with
  | nil => simp [wordOfBytes]
  | cons b bs ih =>
    rw [wordOfBytes, BitVec.getLsbD_or, BitVec.getLsbD_setWidth, BitVec.getLsbD_shiftLeft]
    by_cases h : j < 8
    · have h1 : j / 8 = 0 := by omega
      have h2 : j % 8 = j := by omega
      simp [h, h1, h2, hj]
    · have h1 : j / 8 = (j - 8) / 8 + 1 := by omega
      have h2 : j % 8 = (j - 8) % 8 := by omega
      have h3 : b.getLsbD j = false := BitVec.getLsbD_of_ge _ _ (by omega)
      rw [ih (by omega), h1, h2]
      simp [h, h3, hj]

end Sys2Proof.Machine
end

