-- ==== Sys2Proof/Laws/State.lean ====
section
/-! SUPPORT. One lemma for each field of the state and each update of the state, all true by rfl. -/

namespace Sys2Proof.Machine.State

variable (s : State)

/-! ### setResult -/

@[simp] theorem setResult_glob (r : ResultCode) : (s.setResult r).glob = s.glob := rfl
@[simp] theorem setResult_win (r : ResultCode) : (s.setResult r).win =
    { s.win with result := r.code } := rfl
@[simp] theorem setResult_mem (r : ResultCode) : (s.setResult r).mem = s.mem := rfl
@[simp] theorem setResult_irqPending (r : ResultCode) : (s.setResult r).irqPending = s.irqPending :=
  rfl
@[simp] theorem setResult_tx (r : ResultCode) : (s.setResult r).tx = s.tx := rfl
@[simp] theorem setResult_rx (r : ResultCode) : (s.setResult r).rx = s.rx := rfl
@[simp] theorem setResult_noise (r : ResultCode) : (s.setResult r).noise = s.noise := rfl
@[simp] theorem setResult_imp (r : ResultCode) : (s.setResult r).imp = s.imp := rfl
@[simp] theorem setResult_stats (r : ResultCode) : (s.setResult r).stats = s.stats := rfl
@[simp] theorem setResult_lastLqi (r : ResultCode) : (s.setResult r).lastLqi = s.lastLqi := rfl
@[simp] theorem setResult_hostOut (r : ResultCode) : (s.setResult r).hostOut = s.hostOut := rfl
@[simp] theorem setResult_feOut (r : ResultCode) : (s.setResult r).feOut = s.feOut := rfl
@[simp] theorem setResult_inputs (r : ResultCode) : (s.setResult r).inputs = s.inputs := rfl
@[simp] theorem setResult_readData (r : ResultCode) : (s.setResult r).readData = s.readData := rfl

/-! ### emitHost -/

@[simp] theorem emitHost_glob (r : HostRecord) : (s.emitHost r).glob = s.glob := rfl
@[simp] theorem emitHost_win (r : HostRecord) : (s.emitHost r).win = s.win := rfl
@[simp] theorem emitHost_mem (r : HostRecord) : (s.emitHost r).mem = s.mem := rfl
@[simp] theorem emitHost_irqPending (r : HostRecord) : (s.emitHost r).irqPending = s.irqPending :=
  rfl
@[simp] theorem emitHost_tx (r : HostRecord) : (s.emitHost r).tx = s.tx := rfl
@[simp] theorem emitHost_rx (r : HostRecord) : (s.emitHost r).rx = s.rx := rfl
@[simp] theorem emitHost_noise (r : HostRecord) : (s.emitHost r).noise = s.noise := rfl
@[simp] theorem emitHost_imp (r : HostRecord) : (s.emitHost r).imp = s.imp := rfl
@[simp] theorem emitHost_stats (r : HostRecord) : (s.emitHost r).stats = s.stats := rfl
@[simp] theorem emitHost_lastLqi (r : HostRecord) : (s.emitHost r).lastLqi = s.lastLqi := rfl
@[simp] theorem emitHost_hostOut (r : HostRecord) : (s.emitHost r).hostOut = s.hostOut ++ [r] :=
  rfl
@[simp] theorem emitHost_feOut (r : HostRecord) : (s.emitHost r).feOut = s.feOut := rfl
@[simp] theorem emitHost_inputs (r : HostRecord) : (s.emitHost r).inputs = s.inputs := rfl
@[simp] theorem emitHost_readData (r : HostRecord) : (s.emitHost r).readData = s.readData := rfl

/-! ### emitFe -/

@[simp] theorem emitFe_glob (r : FeRecord) : (s.emitFe r).glob = s.glob := rfl
@[simp] theorem emitFe_win (r : FeRecord) : (s.emitFe r).win = s.win := rfl
@[simp] theorem emitFe_mem (r : FeRecord) : (s.emitFe r).mem = s.mem := rfl
@[simp] theorem emitFe_irqPending (r : FeRecord) : (s.emitFe r).irqPending = s.irqPending := rfl
@[simp] theorem emitFe_tx (r : FeRecord) : (s.emitFe r).tx = s.tx := rfl
@[simp] theorem emitFe_rx (r : FeRecord) : (s.emitFe r).rx = s.rx := rfl
@[simp] theorem emitFe_noise (r : FeRecord) : (s.emitFe r).noise = s.noise := rfl
@[simp] theorem emitFe_imp (r : FeRecord) : (s.emitFe r).imp = s.imp := rfl
@[simp] theorem emitFe_stats (r : FeRecord) : (s.emitFe r).stats = s.stats := rfl
@[simp] theorem emitFe_lastLqi (r : FeRecord) : (s.emitFe r).lastLqi = s.lastLqi := rfl
@[simp] theorem emitFe_hostOut (r : FeRecord) : (s.emitFe r).hostOut = s.hostOut := rfl
@[simp] theorem emitFe_feOut (r : FeRecord) : (s.emitFe r).feOut = s.feOut ++ [r] := rfl
@[simp] theorem emitFe_inputs (r : FeRecord) : (s.emitFe r).inputs = s.inputs := rfl
@[simp] theorem emitFe_readData (r : FeRecord) : (s.emitFe r).readData = s.readData := rfl

/-! ### bump -/

@[simp] theorem bump_glob (i : Stat) : (s.bump i).glob = s.glob := rfl
@[simp] theorem bump_win (i : Stat) : (s.bump i).win = s.win := rfl
@[simp] theorem bump_mem (i : Stat) : (s.bump i).mem = s.mem := rfl
@[simp] theorem bump_irqPending (i : Stat) : (s.bump i).irqPending = s.irqPending := rfl
@[simp] theorem bump_tx (i : Stat) : (s.bump i).tx = s.tx := rfl
@[simp] theorem bump_rx (i : Stat) : (s.bump i).rx = s.rx := rfl
@[simp] theorem bump_noise (i : Stat) : (s.bump i).noise = s.noise := rfl
@[simp] theorem bump_imp (i : Stat) : (s.bump i).imp = s.imp := rfl
@[simp] theorem bump_stats (i : Stat) : (s.bump i).stats =
    s.stats.set i.index.val (s.stats[i.index.val] + 1#32) i.index.isLt := rfl
@[simp] theorem bump_lastLqi (i : Stat) : (s.bump i).lastLqi = s.lastLqi := rfl
@[simp] theorem bump_hostOut (i : Stat) : (s.bump i).hostOut = s.hostOut := rfl
@[simp] theorem bump_feOut (i : Stat) : (s.bump i).feOut = s.feOut := rfl
@[simp] theorem bump_inputs (i : Stat) : (s.bump i).inputs = s.inputs := rfl
@[simp] theorem bump_readData (i : Stat) : (s.bump i).readData = s.readData := rfl

/-! ### enterHandler -/

@[simp] theorem enterHandler_glob (q : IrqSource) : (s.enterHandler q).glob = s.glob := rfl
@[simp] theorem enterHandler_win (q : IrqSource) : (s.enterHandler q).win = s.win := rfl
@[simp] theorem enterHandler_mem (q : IrqSource) : (s.enterHandler q).mem = s.mem := rfl
@[simp] theorem enterHandler_irqPending (q : IrqSource) : (s.enterHandler q).irqPending =
    s.irqPending &&& ~~~(BitVec.twoPow 9 q.bit) := rfl
@[simp] theorem enterHandler_tx (q : IrqSource) : (s.enterHandler q).tx = s.tx := rfl
@[simp] theorem enterHandler_rx (q : IrqSource) : (s.enterHandler q).rx = s.rx := rfl
@[simp] theorem enterHandler_noise (q : IrqSource) : (s.enterHandler q).noise = s.noise := rfl
@[simp] theorem enterHandler_imp (q : IrqSource) : (s.enterHandler q).imp = s.imp := rfl
@[simp] theorem enterHandler_stats (q : IrqSource) : (s.enterHandler q).stats = s.stats := rfl
@[simp] theorem enterHandler_lastLqi (q : IrqSource) : (s.enterHandler q).lastLqi = s.lastLqi :=
  rfl
@[simp] theorem enterHandler_hostOut (q : IrqSource) : (s.enterHandler q).hostOut = s.hostOut :=
  rfl
@[simp] theorem enterHandler_feOut (q : IrqSource) : (s.enterHandler q).feOut = s.feOut := rfl
@[simp] theorem enterHandler_inputs (q : IrqSource) : (s.enterHandler q).inputs = s.inputs := rfl
@[simp] theorem enterHandler_readData (q : IrqSource) : (s.enterHandler q).readData = s.readData :=
  rfl

/-! ### emitTxCfg -/

@[simp] theorem emitTxCfg_glob (y : TxSym) : (s.emitTxCfg y).glob = s.glob := rfl
@[simp] theorem emitTxCfg_win (y : TxSym) : (s.emitTxCfg y).win = s.win := rfl
@[simp] theorem emitTxCfg_mem (y : TxSym) : (s.emitTxCfg y).mem = s.mem := rfl
@[simp] theorem emitTxCfg_irqPending (y : TxSym) : (s.emitTxCfg y).irqPending = s.irqPending := rfl
@[simp] theorem emitTxCfg_tx (y : TxSym) : (s.emitTxCfg y).tx = s.tx := rfl
@[simp] theorem emitTxCfg_rx (y : TxSym) : (s.emitTxCfg y).rx = s.rx := rfl
@[simp] theorem emitTxCfg_noise (y : TxSym) : (s.emitTxCfg y).noise = s.noise := rfl
@[simp] theorem emitTxCfg_imp (y : TxSym) : (s.emitTxCfg y).imp = s.imp := rfl
@[simp] theorem emitTxCfg_stats (y : TxSym) : (s.emitTxCfg y).stats = s.stats := rfl
@[simp] theorem emitTxCfg_lastLqi (y : TxSym) : (s.emitTxCfg y).lastLqi = s.lastLqi := rfl
@[simp] theorem emitTxCfg_hostOut (y : TxSym) : (s.emitTxCfg y).hostOut = s.hostOut := rfl
@[simp] theorem emitTxCfg_feOut (y : TxSym) : (s.emitTxCfg y).feOut =
    s.feOut ++ [.txCfg y (s.notchFor y)] := rfl
@[simp] theorem emitTxCfg_inputs (y : TxSym) : (s.emitTxCfg y).inputs = s.inputs := rfl
@[simp] theorem emitTxCfg_readData (y : TxSym) : (s.emitTxCfg y).readData = s.readData := rfl

/-! ### endFrame -/

@[simp] theorem endFrame_glob (st : TxStep) (p : Pending) : (s.endFrame st p).glob = s.glob := rfl
@[simp] theorem endFrame_win (st : TxStep) (p : Pending) : (s.endFrame st p).win = s.win := rfl
@[simp] theorem endFrame_mem (st : TxStep) (p : Pending) : (s.endFrame st p).mem = s.mem := rfl
@[simp] theorem endFrame_irqPending (st : TxStep) (p : Pending) : (s.endFrame st p).irqPending =
    s.irqPending := rfl
@[simp] theorem endFrame_tx (st : TxStep) (p : Pending) : (s.endFrame st p).tx =
    { step := st, ctl := none, pend := some p } := rfl
@[simp] theorem endFrame_rx (st : TxStep) (p : Pending) : (s.endFrame st p).rx = s.rx := rfl
@[simp] theorem endFrame_noise (st : TxStep) (p : Pending) : (s.endFrame st p).noise = s.noise :=
  rfl
@[simp] theorem endFrame_imp (st : TxStep) (p : Pending) : (s.endFrame st p).imp = s.imp := rfl
@[simp] theorem endFrame_stats (st : TxStep) (p : Pending) : (s.endFrame st p).stats = s.stats :=
  rfl
@[simp] theorem endFrame_lastLqi (st : TxStep) (p : Pending) : (s.endFrame st p).lastLqi =
    s.lastLqi := rfl
@[simp] theorem endFrame_hostOut (st : TxStep) (p : Pending) : (s.endFrame st p).hostOut =
    s.hostOut := rfl
@[simp] theorem endFrame_feOut (st : TxStep) (p : Pending) : (s.endFrame st p).feOut = s.feOut :=
  rfl
@[simp] theorem endFrame_inputs (st : TxStep) (p : Pending) : (s.endFrame st p).inputs = s.inputs :=
  rfl
@[simp] theorem endFrame_readData (st : TxStep) (p : Pending) : (s.endFrame st p).readData =
    s.readData := rfl

/-! ### rxEnter -/

@[simp] theorem rxEnter_glob (st : RxStep) (r : RxControl) : (s.rxEnter st r).glob = s.glob := rfl
@[simp] theorem rxEnter_win (st : RxStep) (r : RxControl) : (s.rxEnter st r).win = s.win := rfl
@[simp] theorem rxEnter_mem (st : RxStep) (r : RxControl) : (s.rxEnter st r).mem = s.mem := rfl
@[simp] theorem rxEnter_irqPending (st : RxStep) (r : RxControl) : (s.rxEnter st r).irqPending =
    s.irqPending := rfl
@[simp] theorem rxEnter_tx (st : RxStep) (r : RxControl) : (s.rxEnter st r).tx = s.tx := rfl
@[simp] theorem rxEnter_rx (st : RxStep) (r : RxControl) : (s.rxEnter st r).rx =
    { step := st, sub := .none, ctl := some r } := rfl
@[simp] theorem rxEnter_noise (st : RxStep) (r : RxControl) : (s.rxEnter st r).noise = s.noise :=
  rfl
@[simp] theorem rxEnter_imp (st : RxStep) (r : RxControl) : (s.rxEnter st r).imp = s.imp := rfl
@[simp] theorem rxEnter_stats (st : RxStep) (r : RxControl) : (s.rxEnter st r).stats = s.stats :=
  rfl
@[simp] theorem rxEnter_lastLqi (st : RxStep) (r : RxControl) : (s.rxEnter st r).lastLqi =
    s.lastLqi := rfl
@[simp] theorem rxEnter_hostOut (st : RxStep) (r : RxControl) : (s.rxEnter st r).hostOut =
    s.hostOut := rfl
@[simp] theorem rxEnter_feOut (st : RxStep) (r : RxControl) : (s.rxEnter st r).feOut = s.feOut :=
  rfl
@[simp] theorem rxEnter_inputs (st : RxStep) (r : RxControl) : (s.rxEnter st r).inputs = s.inputs :=
  rfl
@[simp] theorem rxEnter_readData (st : RxStep) (r : RxControl) : (s.rxEnter st r).readData =
    s.readData := rfl

/-! ### rxIdle -/

@[simp] theorem rxIdle_glob : (s.rxIdle).glob = s.glob := rfl
@[simp] theorem rxIdle_win : (s.rxIdle).win = s.win := rfl
@[simp] theorem rxIdle_mem : (s.rxIdle).mem = s.mem := rfl
@[simp] theorem rxIdle_irqPending : (s.rxIdle).irqPending = s.irqPending := rfl
@[simp] theorem rxIdle_tx : (s.rxIdle).tx = s.tx := rfl
@[simp] theorem rxIdle_rx : (s.rxIdle).rx = .reset := rfl
@[simp] theorem rxIdle_noise : (s.rxIdle).noise = s.noise := rfl
@[simp] theorem rxIdle_imp : (s.rxIdle).imp = s.imp := rfl
@[simp] theorem rxIdle_stats : (s.rxIdle).stats = s.stats := rfl
@[simp] theorem rxIdle_lastLqi : (s.rxIdle).lastLqi = s.lastLqi := rfl
@[simp] theorem rxIdle_hostOut : (s.rxIdle).hostOut = s.hostOut := rfl
@[simp] theorem rxIdle_feOut : (s.rxIdle).feOut = s.feOut := rfl
@[simp] theorem rxIdle_inputs : (s.rxIdle).inputs = s.inputs := rfl
@[simp] theorem rxIdle_readData : (s.rxIdle).readData = s.readData := rfl

/-! ### rxToAborted -/

@[simp] theorem rxToAborted_glob (w : Stat) : (s.rxToAborted w).glob = s.glob := rfl
@[simp] theorem rxToAborted_win (w : Stat) : (s.rxToAborted w).win = s.win := rfl
@[simp] theorem rxToAborted_mem (w : Stat) : (s.rxToAborted w).mem = s.mem := rfl
@[simp] theorem rxToAborted_irqPending (w : Stat) : (s.rxToAborted w).irqPending = s.irqPending :=
  rfl
@[simp] theorem rxToAborted_tx (w : Stat) : (s.rxToAborted w).tx = s.tx := rfl
@[simp] theorem rxToAborted_rx (w : Stat) : (s.rxToAborted w).rx =
    { s.rx with step := .aborted, sub := .none } := rfl
@[simp] theorem rxToAborted_noise (w : Stat) : (s.rxToAborted w).noise = s.noise := rfl
@[simp] theorem rxToAborted_imp (w : Stat) : (s.rxToAborted w).imp = s.imp := rfl
@[simp] theorem rxToAborted_stats (w : Stat) : (s.rxToAborted w).stats =
    s.stats.set w.index.val (s.stats[w.index.val] + 1#32) w.index.isLt := rfl
@[simp] theorem rxToAborted_lastLqi (w : Stat) : (s.rxToAborted w).lastLqi = s.lastLqi := rfl
@[simp] theorem rxToAborted_hostOut (w : Stat) : (s.rxToAborted w).hostOut = s.hostOut := rfl
@[simp] theorem rxToAborted_feOut (w : Stat) : (s.rxToAborted w).feOut = s.feOut := rfl
@[simp] theorem rxToAborted_inputs (w : Stat) : (s.rxToAborted w).inputs = s.inputs := rfl
@[simp] theorem rxToAborted_readData (w : Stat) : (s.rxToAborted w).readData = s.readData := rfl

/-! ### storeBytes -/

@[simp] theorem storeBytes_glob (a : Nat) (n : Width) (v : Word) : (s.storeBytes a n v).glob =
    s.glob := rfl
@[simp] theorem storeBytes_win (a : Nat) (n : Width) (v : Word) : (s.storeBytes a n v).win = s.win :=
  rfl
@[simp] theorem storeBytes_mem (a : Nat) (n : Width) (v : Word) : (s.storeBytes a n v).mem =
    s.mem.writeBytes a (bytesOfWord n.bytes v) := rfl
@[simp] theorem storeBytes_irqPending (a : Nat) (n : Width) (v : Word) : (s.storeBytes a n v).irqPending =
    s.irqPending := rfl
@[simp] theorem storeBytes_tx (a : Nat) (n : Width) (v : Word) : (s.storeBytes a n v).tx = s.tx :=
  rfl
@[simp] theorem storeBytes_rx (a : Nat) (n : Width) (v : Word) : (s.storeBytes a n v).rx = s.rx :=
  rfl
@[simp] theorem storeBytes_noise (a : Nat) (n : Width) (v : Word) : (s.storeBytes a n v).noise =
    s.noise := rfl
@[simp] theorem storeBytes_imp (a : Nat) (n : Width) (v : Word) : (s.storeBytes a n v).imp = s.imp :=
  rfl
@[simp] theorem storeBytes_stats (a : Nat) (n : Width) (v : Word) : (s.storeBytes a n v).stats =
    s.stats := rfl
@[simp] theorem storeBytes_lastLqi (a : Nat) (n : Width) (v : Word) : (s.storeBytes a n v).lastLqi =
    s.lastLqi := rfl
@[simp] theorem storeBytes_hostOut (a : Nat) (n : Width) (v : Word) : (s.storeBytes a n v).hostOut =
    s.hostOut := rfl
@[simp] theorem storeBytes_feOut (a : Nat) (n : Width) (v : Word) : (s.storeBytes a n v).feOut =
    s.feOut := rfl
@[simp] theorem storeBytes_inputs (a : Nat) (n : Width) (v : Word) : (s.storeBytes a n v).inputs =
    s.inputs := rfl
@[simp] theorem storeBytes_readData (a : Nat) (n : Width) (v : Word) : (s.storeBytes a n v).readData =
    s.readData := rfl

/-! ### runGain -/

@[simp] theorem runGain_glob (c : Cfg) (p : Pending) : (runGain c p s).glob = s.glob := rfl
@[simp] theorem runGain_win (c : Cfg) (p : Pending) : (runGain c p s).win = s.win := rfl
@[simp] theorem runGain_mem (c : Cfg) (p : Pending) : (runGain c p s).mem = s.mem := rfl
@[simp] theorem runGain_irqPending (c : Cfg) (p : Pending) : (runGain c p s).irqPending =
    s.irqPending := rfl
@[simp] theorem runGain_tx (c : Cfg) (p : Pending) : (runGain c p s).tx = s.tx := rfl
@[simp] theorem runGain_rx (c : Cfg) (p : Pending) : (runGain c p s).rx = s.rx := rfl
@[simp] theorem runGain_noise (c : Cfg) (p : Pending) : (runGain c p s).noise = s.noise := rfl
@[simp] theorem runGain_stats (c : Cfg) (p : Pending) : (runGain c p s).stats = s.stats := rfl
@[simp] theorem runGain_lastLqi (c : Cfg) (p : Pending) : (runGain c p s).lastLqi = s.lastLqi :=
  rfl
@[simp] theorem runGain_hostOut (c : Cfg) (p : Pending) : (runGain c p s).hostOut = s.hostOut :=
  rfl
@[simp] theorem runGain_feOut (c : Cfg) (p : Pending) : (runGain c p s).feOut = s.feOut := rfl
@[simp] theorem runGain_inputs (c : Cfg) (p : Pending) : (runGain c p s).inputs = s.inputs := rfl
@[simp] theorem runGain_readData (c : Cfg) (p : Pending) : (runGain c p s).readData = s.readData :=
  rfl

/-! ### reinit -/

@[simp] theorem reinit_win (c : Cfg) (k : Bool) : (s.reinit c k).win = s.win := by cases k <;> rfl
@[simp] theorem reinit_mem (c : Cfg) (k : Bool) : (s.reinit c k).mem = s.mem := by cases k <;> rfl
@[simp] theorem reinit_lastLqi (c : Cfg) (k : Bool) : (s.reinit c k).lastLqi = s.lastLqi := by cases k <;> rfl
@[simp] theorem reinit_hostOut (c : Cfg) (k : Bool) : (s.reinit c k).hostOut = s.hostOut := by cases k <;> rfl
@[simp] theorem reinit_inputs (c : Cfg) (k : Bool) : (s.reinit c k).inputs = s.inputs := by cases k <;> rfl
@[simp] theorem reinit_readData (c : Cfg) (k : Bool) : (s.reinit c k).readData = s.readData := by cases k <;> rfl
@[simp] theorem reinit_tx (c : Cfg) (k : Bool) : (s.reinit c k).tx = .reset := by
  cases k <;> rfl
@[simp] theorem reinit_rx (c : Cfg) (k : Bool) : (s.reinit c k).rx = .reset := by
  cases k <;> rfl
@[simp] theorem reinit_noise (c : Cfg) (k : Bool) : (s.reinit c k).noise = .reset := by
  cases k <;> rfl
@[simp] theorem reinit_imp (c : Cfg) (k : Bool) : (s.reinit c k).imp = .reset c := by
  cases k <;> rfl
@[simp] theorem reinit_irqPending (c : Cfg) (k : Bool) : (s.reinit c k).irqPending = 0#9 := by
  cases k <;> rfl
@[simp] theorem reinit_feOut (c : Cfg) (k : Bool) : (s.reinit c k).feOut = s.feOut ++ [.reset s.glob.band] := by
  cases k <;> rfl
@[simp] theorem reinit_glob (c : Cfg) (k : Bool) :
    (s.reinit c k).glob = { s.glob with
      noiseDueMs := s.glob.timeMs + s.glob.noiseIntervalMs
      staticNotch := s.glob.staticNotch &&& fullMask s.glob.band } := by cases k <;> rfl
theorem reinit_stats (c : Cfg) (k : Bool) :
    (s.reinit c k).stats = if k then (s.bump .phyReset).stats else s.stats := by cases k <;> rfl

end Sys2Proof.Machine.State
end

