-- ==== Sys2Proof/Laws/Ops.lean ====
section
/-! SUPPORT. What each shared operation can do, said once: the provers cite these instead of
unfolding the operation. -/

namespace Sys2Proof.Machine

/-! ## Numbers and counters -/

theorem sat32_toNat (x : Nat) : (sat32 x).toNat = min x (2 ^ 32 - 1) := by
  rw [sat32, BitVec.toNat_ofNat]
  omega

/-- Incrementing one counter leaves the others alone. -/
theorem State.bump_stats_get (s : State) (i : Stat) (k : Fin 11) :
    (s.bump i).stats[k.val] =
      if i.index = k then s.stats[k.val] + 1#32 else s.stats[k.val] := by
  simp only [State.bump, Vector.getElem_set, Fin.ext_iff]
  split
  · next h => simp only [h]
  · rfl

/-! ## Interrupts -/

theorem mem_irqSources (q : IrqSource) : q ∈ irqSources := by cases q <;> decide

theorem IrqSource.bit_lt (q : IrqSource) : q.bit < 9 := by cases q <;> decide

theorem IrqSource.bit_injective : Function.Injective IrqSource.bit := by
  intro p q h
  cases p <;> cases q <;> first | rfl | exact absurd h (by decide)

/-- The source at a bit position. -/
theorem IrqSource.exists_bit {n : Nat} (h : n < 9) : ∃ q : IrqSource, q.bit = n := by
  match n, h with
  | 0, _ => exact ⟨.linkError, rfl⟩
  | 1, _ => exact ⟨.csPeak, rfl⟩
  | 2, _ => exact ⟨.txSymbol, rfl⟩
  | 3, _ => exact ⟨.rxSync, rfl⟩
  | 4, _ => exact ⟨.rxNoPeak2, rfl⟩
  | 5, _ => exact ⟨.rxBuf, rfl⟩
  | 6, _ => exact ⟨.rxAbort, rfl⟩
  | 7, _ => exact ⟨.agcDone, rfl⟩
  | 8, _ => exact ⟨.captureDone, rfl⟩

/-- The lowest pending source is pending, and no lower one is. -/
theorem lowestPending_some {p : BitVec 9} {q : IrqSource} (h : lowestPending p = some q) :
    p.getLsbD q.bit = true ∧ ∀ r : IrqSource, r.bit < q.bit → p.getLsbD r.bit = false := by
  revert h
  simp only [lowestPending, irqSources, List.find?_cons, List.find?_nil]
  repeat' split
  all_goals
    intro h
    cases h
    try exact ⟨‹_›, fun r hr => by cases r <;> simp_all [IrqSource.bit]⟩

/-- No source is lowest only when none is pending. -/
theorem lowestPending_none {p : BitVec 9} : lowestPending p = none ↔ p = 0#9 := by
  constructor
  · intro h
    rw [lowestPending, List.find?_eq_none] at h
    refine BitVec.eq_of_getLsbD_eq fun i hi => ?_
    obtain ⟨q, rfl⟩ := IrqSource.exists_bit hi
    simpa using h q (mem_irqSources q)
  · rintro rfl
    decide

@[simp] theorem lowestPending_zero : lowestPending 0#9 = none := lowestPending_none.2 rfl

@[simp] theorem lowestPending_single (q : IrqSource) :
    lowestPending (BitVec.twoPow 9 q.bit) = some q := by cases q <;> decide

theorem irqLoop_of_idle (h : IrqSource → State → State) (n : Nat) {s : State}
    (hs : s.irqPending = 0#9) : irqLoop h n s = s := by
  cases n with
  | zero => rfl
  | succ n => rw [irqLoop, hs, lowestPending_zero]

/-- What every handler keeps, the dispatch loop keeps. -/
theorem irqLoop_keeps {h : IrqSource → State → State} {P : State → Prop}
    (keeps : ∀ q s, P s → P (h q (s.enterHandler q))) (n : Nat) {s : State} (hs : P s) :
    P (irqLoop h n s) := by
  induction n generalizing s with
  | zero => exact hs
  | succ n ih =>
    rw [irqLoop]
    split
    · exact hs
    · exact ih (keeps _ _ hs)

/-- What every handler keeps relative to a start state, the dispatch loop keeps relative to it: the
form for frames and writers. -/
theorem irqLoop_relates {h : IrqSource → State → State} {R : State → State → Prop}
    (refl : ∀ s, R s s) (trans : ∀ {s t u}, R s t → R t u → R s u)
    (one : ∀ q s, R s (h q (s.enterHandler q))) (n : Nat) (s : State) :
    R s (irqLoop h n s) :=
  irqLoop_keeps (P := R s) (fun q t ht => trans ht (one q t)) n (refl s)

/-- The dispatch loop on one pending source runs that source's handler, provided the handler leaves
nothing pending. -/
theorem irqLoop_single (h : IrqSource → State → State) (n : Nat) {s : State} (q : IrqSource)
    (hs : s.irqPending = BitVec.twoPow 9 q.bit)
    (hq : (h q { s with irqPending := 0#9 }).irqPending = 0#9) :
    irqLoop h (n + 1) s = h q { s with irqPending := 0#9 } := by
  have he : s.enterHandler q = { s with irqPending := 0#9 } := by
    rw [State.enterHandler, hs]
    cases q <;> rfl
  rw [irqLoop, hs, lowestPending_single]
  simp only [he]
  exact irqLoop_of_idle h n hq

/-! ## PHY reinitialisation -/

/-- Everything PHY reinitialisation does (R412), the counter apart. -/
theorem State.reinit_eq (c : Cfg) (counted : Bool) (s : State) :
    s.reinit c counted =
      { s.freshPhy c with
        stats :=
          if counted then s.stats.set 10 (s.stats[10] + 1#32) else s.stats } := by
  cases counted <;> rfl

/-! ## Carrier masks -/

theorem fullMask_getLsbD (b : Band) (i : Nat) :
    (fullMask b).getLsbD i = decide (i < Config.total b) := by
  have ht : Config.total b ≤ 128 := by cases b <;> decide
  rw [fullMask, BitVec.getLsbD_ofNat, Nat.testBit_two_pow_sub_one]
  by_cases h : i < Config.total b
  · simp [h]; omega
  · simp [h]


end Sys2Proof.Machine
end

