-- ==== Sys2Proof/Laws/PerInstr.lean ====
section
/-! SUPPORT. The family `RowFit`, one lemma for each constructor of `Instr`: the encoding of an
instruction fits the opcode table's row of its mnemonic, on its port. -/

namespace Sys2Proof.Laws.RowFit

/-- The encoding of `i` fits the row of the opcode table with the mnemonic and the port of `i`. -/
def Statement (i : Instr) : Prop :=
  ∃ r ∈ opcodeTable, r.mnemonic = i.mnemonic ∧ r.port = i.port ∧ r.fits (encode i) = true

/-- A word fits a row when each of its 32 bits is the pattern's wherever the mask is set. -/
theorem fits_of_bits {r : OpcodeRow} {w : Word}
    (h : ∀ k, k < 32 → (w.getLsbD k && r.mask.getLsbD k) = r.pattern.getLsbD k) :
    r.fits w = true := by
  rw [OpcodeRow.fits, beq_iff_eq]
  refine BitVec.eq_of_getLsbD_eq fun k hk => ?_
  rw [BitVec.getLsbD_and, h k hk]

theorem init (band : Band) : Statement (.init band) := by
  cases band <;> exact ⟨_, .head _, rfl, rfl, rfl⟩

theorem transmit (mod : Modulation) (sch : Scheme) (dt : Delimiter) (pwr : BitVec 4)
    (noadapt imm : Bool) (len : BitVec 9) : Statement (.transmit mod sch dt pwr noadapt imm len) := by
  refine ⟨⟨"TRANSMIT", .cmd, 0x08000000#32, 0xFC007E00#32⟩, by decide, rfl, rfl,
    fits_of_bits fun k hk => ?_⟩
  rw [encode_transmit_getLsbD]
  simp only [BitVec.getLsbD_append]
  interval_cases k <;> simp

theorem getParam (id : BitVec 16) : Statement (.getParam id) := by
  refine ⟨⟨"GET_PARAM", .cmd, 0x0C000000#32, 0xFFFF0000#32⟩, by decide, rfl, rfl,
    fits_of_bits fun k hk => ?_⟩
  rw [encode_getParam_getLsbD]
  simp only [BitVec.getLsbD_append]
  interval_cases k <;> simp

theorem setParam (id : BitVec 16) : Statement (.setParam id) := by
  refine ⟨⟨"SET_PARAM", .cmd, 0x10000000#32, 0xFFFF0000#32⟩, by decide, rfl, rfl,
    fits_of_bits fun k hk => ?_⟩
  rw [encode_setParam_getLsbD]
  simp only [BitVec.getLsbD_append]
  interval_cases k <;> simp

theorem process : Statement .process :=
  ⟨⟨"PROCESS", .cmd, 0x14000000#32, 0xFFFFFFFF#32⟩, by decide, rfl, rfl, by decide⟩

theorem cancel : Statement .cancel :=
  ⟨⟨"CANCEL", .cmd, 0x18000000#32, 0xFFFFFFFF#32⟩, by decide, rfl, rfl, by decide⟩

theorem evIrq (src : BitVec 9) (txok rxok : Bool) : Statement (.evIrq src txok rxok) := by
  refine ⟨⟨"EV_IRQ", .evt, 0x80000000#32, 0xFFFCFE00#32⟩, by decide, rfl, rfl,
    fits_of_bits fun k hk => ?_⟩
  rw [encode_evIrq_getLsbD]
  simp only [BitVec.getLsbD_append]
  interval_cases k <;> simp

theorem evTick (delta : BitVec 16) : Statement (.evTick delta) := by
  refine ⟨⟨"EV_TICK", .evt, 0x84000000#32, 0xFFFF0000#32⟩, by decide, rfl, rfl,
    fits_of_bits fun k hk => ?_⟩
  rw [encode_evTick_getLsbD]
  simp only [BitVec.getLsbD_append]
  interval_cases k <;> simp

end Sys2Proof.Laws.RowFit
end

