-- ==== Sys2Proof/Laws/Records.lean ====
section
/-! SUPPORT. The FCH codec's bit strings and the positions of a record: a position, a field and the
CRC of a record are what the codec reads in its bit string. -/

namespace Sys2Proof.Machine

/-- Position p of a record's bit string. -/
theorem getElem?_bitsOfBytes (raw : List Byte) (p : Nat) :
    (bitsOfBytes raw)[p]? = if p < 8 * raw.length then some (recordBit raw p) else none := by
  induction raw generalizing p with
  | nil => simp [bitsOfBytes]
  | cons b bs ih =>
    have e : bitsOfBytes (b :: bs) = bitsOfNat 8 b.toNat ++ bitsOfBytes bs := rfl
    rw [e, List.length_cons]
    by_cases hp : p < 8
    · rw [List.getElem?_append_left (by simpa using hp), if_pos (by omega),
        List.getElem?_eq_getElem (by simpa using hp), getElem_bitsOfNat, recordBit,
        Nat.div_eq_of_lt hp, Nat.mod_eq_of_lt hp]
      rfl
    · obtain ⟨k, rfl⟩ : ∃ k, p = k + 8 := ⟨p - 8, by omega⟩
      rw [List.getElem?_append_right (by simp), length_bitsOfNat, Nat.add_sub_cancel, ih]
      have h1 : (k + 8) / 8 = k / 8 + 1 := by omega
      have h2 : (k + 8) % 8 = k % 8 := by omega
      have h3 : recordBit (b :: bs) (k + 8) = recordBit bs k := by
        rw [recordBit, recordBit, h1, h2, List.getD_cons_succ]
      rw [h3]
      by_cases hk : k < 8 * bs.length
      · rw [if_pos hk, if_pos (by omega)]
      · rw [if_neg hk, if_neg (by omega)]

/-- A span of a record's bit string. -/
theorem bitsOfBytes_span {raw : List Byte} {q w : Nat} (h : q + w ≤ 8 * raw.length) :
    ((bitsOfBytes raw).drop q).take w = (List.range w).map fun i => recordBit raw (q + i) := by
  refine List.ext_getElem? fun i => ?_
  by_cases hi : i < w
  · rw [List.getElem?_take_of_lt hi, List.getElem?_drop, getElem?_bitsOfBytes,
      if_pos (by omega), List.getElem?_map, List.getElem?_range hi]
    rfl
  · rw [List.getElem?_take, if_neg hi, List.getElem?_eq_none (by simpa using hi)]

/-- A bit string as the sum of its bits' weights. -/
theorem natOfBits_map_range (f : Nat → Bool) (w : Nat) :
    natOfBits ((List.range w).map f) =
      ((List.range w).map fun i => (f i).toNat * 2 ^ (w - 1 - i)).sum := by
  induction w generalizing f with
  | zero => rfl
  | succ w ih =>
    have hb : bitNat (f 0) = (f 0).toNat := by cases f 0 <;> rfl
    have hm : (List.range w).map (fun i => (f (i + 1)).toNat * 2 ^ (w + 1 - 1 - (i + 1))) =
        (List.range w).map fun i => (f (i + 1)).toNat * 2 ^ (w - 1 - i) := by
      refine List.map_congr_left fun i _ => ?_
      congr 2
      omega
    simp only [List.range_succ_eq_map, List.map_cons, List.map_map, List.sum_cons,
      natOfBits_cons, List.length_map, List.length_range, Function.comp_def, hb]
    rw [ih fun i => f (i + 1)]
    simp only [Nat.succ_eq_add_one, hm]
    simp

/-- The codec's field is the record's (R171). -/
theorem getBits_bitsOfBytes {raw : List Byte} {q w : Nat} (h : q + w ≤ 8 * raw.length) :
    getBits (bitsOfBytes raw) q w = recordField raw q w := by
  rw [getBits, bitsOfBytes_span h, natOfBits_map_range, recordField]

/-- The codec's CRC of the first n positions is the record's (R183). -/
theorem crc_bitsOfBytes {W : Nat} (poly : BitVec W) {raw : List Byte} {n : Nat}
    (h : n ≤ 8 * raw.length) :
    (crc poly ((bitsOfBytes raw).take n)).toNat = recordCrc poly raw n := by
  have hs := bitsOfBytes_span (raw := raw) (q := 0) (w := n) (by omega)
  simp only [List.drop_zero, Nat.zero_add] at hs
  rw [hs, crc, recordCrc, List.foldl_map]
  rfl

/-- What decode checks first is that the record is sealed (R193 steps 1 and 2). -/
theorem recordSealed_iff {b : Band} {raw : List Byte} (h : raw.length = Config.fchLen b) :
    RecordSealed b raw ↔
      getBits (bitsOfBytes raw) (fchFormat b).prot (fchFormat b).crcWidth =
          fchCrc (fchFormat b) (bitsOfBytes raw) ∧
        getBits (bitsOfBytes raw) (fchFormat b).tailPos (fchFormat b).tailWidth = 0 := by
  cases b <;>
    simp only [RecordSealed, Config.layout, fchFormat, formatOf, cenFormat, faFormat, fchCrc,
      Config.fchLen] at * <;>
    rw [getBits_bitsOfBytes (by omega), getBits_bitsOfBytes (by omega),
      crc_bitsOfBytes _ (by omega)] <;>
    rfl

/-- The codes decode reads are those the record names (R193). -/
theorem recordNames_iff {b : Band} {raw : List Byte} {m : Modulation} {dt : Delimiter}
    {sch : Scheme} (h : raw.length = Config.fchLen b) :
    RecordNames b raw m dt sch ↔
      Modulation.ofCode (BitVec.ofNat 2 (getBits (bitsOfBytes raw) modPos 2)) = m ∧
        Delimiter.ofCode (BitVec.ofNat 2 (getBits (bitsOfBytes raw) (fchFormat b).dtPos 2)) = dt ∧
        Scheme.ofBit (getBits (bitsOfBytes raw) (fchFormat b).schPos 1 = 1) = sch := by
  have lt : ∀ q w, getBits (bitsOfBytes raw) q w < 2 ^ w := fun q w =>
    lt_of_lt_of_le (natOfBits_lt _) (Nat.pow_le_pow_right (by decide) (by simp))
  have codes : ∀ x y z, x < 4 → y < 4 → z < 2 →
      ((x = (match m with
          | .robo => 0
          | .bpsk => 1
          | .qpsk => 2
          | .psk8 => 3) ∧
        y = (match dt with
          | .dataNoResp => 0
          | .dataResp => 1
          | .ack => 2
          | .nack => 3) ∧
        z = (match sch with
          | .differential => 0
          | .coherent => 1)) ↔
      Modulation.ofCode (BitVec.ofNat 2 x) = m ∧ Delimiter.ofCode (BitVec.ofNat 2 y) = dt ∧
        Scheme.ofBit (decide (z = 1)) = sch) := by
    intro x y z hx hy hz
    interval_cases x <;> interval_cases y <;> interval_cases z <;> cases m <;> cases dt <;>
      cases sch <;> decide
  cases b <;>
    simp only [RecordNames, Config.layout, fchFormat, formatOf, cenFormat, faFormat,
      Config.fchLen, modPos] at * <;>
    rw [← getBits_bitsOfBytes (by omega), ← getBits_bitsOfBytes (by omega),
      ← getBits_bitsOfBytes (by omega)] <;>
    cases sch <;> exact codes _ _ _ (lt _ 2) (lt _ 2) (lt _ 1)

end Sys2Proof.Machine
end

