-- ==== Sys2Proof/Laws/Words.lean ====
section
/-! SUPPORT. What a word and a step can do: every word answers a next state, an EV_IRQ word of one
source is that source's handler, the handlers do not read the pending set, and the cases of a
step. -/

namespace Sys2Proof.Machine

/-! ## exec -/

@[simp] theorem exec_init (b : Band) (s : State) :
    exec (.init b) s = .next (s.initWord Config.cfg b) := rfl

@[simp] theorem exec_transmit (m : Modulation) (sch : Scheme) (d : Delimiter) (pwr : BitVec 4)
    (noadapt imm : Bool) (len : BitVec 9) (s : State) :
    exec (.transmit m sch d pwr noadapt imm len) s =
      .next (s.transmitWord Config.cfg
        { mod := m, sch := sch, dt := d, pwr := pwr, noadapt := noadapt, imm := imm, len := len }) :=
  rfl

@[simp] theorem exec_getParam (id : BitVec 16) (s : State) :
    exec (.getParam id) s = .next (s.getParamWord Config.cfg id) := rfl

@[simp] theorem exec_setParam (id : BitVec 16) (s : State) :
    exec (.setParam id) s = .next (s.setParamWord Config.cfg id) := rfl

@[simp] theorem exec_process (s : State) : exec .process s = .next (s.processWord Config.cfg) := rfl

@[simp] theorem exec_cancel (s : State) : exec .cancel s = .next s.cancelWord := rfl

@[simp] theorem exec_evIrq (src : BitVec 9) (txok rxok : Bool) (s : State) :
    exec (.evIrq src txok rxok) s = .next (s.irqWord Config.cfg src txok rxok) := rfl

@[simp] theorem exec_evTick (delta : BitVec 16) (s : State) :
    exec (.evTick delta) s = .next (s.tickWord delta) := rfl

/-- No word faults and none is refused (R404). -/
theorem exec_next (i : Instr) (s : State) : ∃ t, exec i s = .next t := by
  cases i <;> exact ⟨_, rfl⟩

theorem processWordOn_next (p : Port) (w : Word) (s : State) :
    ∃ t, processWordOn p w s = .next t := by
  unfold processWordOn
  split
  · exact exec_next ..
  · exact ⟨_, rfl⟩

/-- Running words one after another, split. -/
theorem execAll_append (xs ys : List Instr) (s : State) :
    execAll (xs ++ ys) s = match execAll xs s with
      | .next t => execAll ys t
      | .fault f => .fault f
      | .refused r => .refused r := by
  induction xs generalizing s with
  | nil => rfl
  | cons i xs ih =>
    obtain ⟨t, ht⟩ := exec_next i s
    simp only [List.cons_append, execAll, ht, ih]

/-! ## The pending set -/

/-- A function of the state that neither reads nor writes the pending set. -/
abbrev IgnoresPending (f : State → State) : Prop :=
  ∀ (s : State) (p : BitVec 9), f { s with irqPending := p } = { f s with irqPending := p }

theorem IgnoresPending.irqPending {f : State → State} (h : IgnoresPending f) (s : State) :
    (f s).irqPending = s.irqPending := by
  have e := congrArg State.irqPending (h s s.irqPending)
  exact e

theorem ignoresPending_abortCapture : IgnoresPending State.abortCapture := by
  intro s p
  simp only [State.abortCapture]
  split <;> rfl

theorem ignoresPending_rxArm : IgnoresPending State.rxArm := by
  intro s p
  simp only [State.rxArm]
  split <;> rfl

theorem ignoresPending_cancelFrame : IgnoresPending State.cancelFrame := fun _ _ => rfl

theorem ignoresPending_csPeak : IgnoresPending State.csPeak := by
  intro s p
  simp only [State.csPeak]
  split
  · rfl
  · split <;> simp only [ignoresPending_cancelFrame _ p, ignoresPending_abortCapture _ p,
      ignoresPending_rxArm _ p]

theorem ignoresPending_advanceFrame (t : TxControl) (nxt : TxSym) (txok : Bool) :
    IgnoresPending (State.advanceFrame t nxt txok) := by
  intro s p
  simp only [State.advanceFrame]
  split
  · rfl
  · split
    · simp only [State.loadBlock]
      split <;> rfl
    · rfl

theorem ignoresPending_consumeSymbol (t : TxControl) (txok : Bool) :
    IgnoresPending (State.consumeSymbol t txok) := by
  intro s p
  simp only [State.consumeSymbol]
  split
  · rfl
  · rfl
  · split
    · rfl
    · exact ignoresPending_advanceFrame ..

theorem ignoresPending_txSymbol (txok : Bool) : IgnoresPending (State.txSymbol txok) := by
  intro s p
  simp only [State.txSymbol]
  split
  · split
    · rfl
    · exact ignoresPending_consumeSymbol ..
  · rfl

theorem ignoresPending_rxSync : IgnoresPending State.rxSync := by
  intro s p
  simp only [State.rxSync]
  split <;> try rfl
  simp only [State.rxSyncPeak1]
  split <;> rfl

theorem ignoresPending_rxNoPeak2 : IgnoresPending State.rxNoPeak2 := by
  intro s p
  simp only [State.rxNoPeak2]
  split <;> rfl

theorem ignoresPending_rxAbort : IgnoresPending State.rxAbort := by
  intro s p
  simp only [State.rxAbort]
  split <;> rfl

theorem ignoresPending_rxChunk (c : Cfg) (r : RxControl) :
    IgnoresPending (State.rxChunk c r) := by
  intro s p
  simp only [State.rxChunk]
  have e : State.rxChunkBytes { s with irqPending := p } = s.rxChunkBytes := rfl
  rw [e]
  split
  · simp only [State.endBlock]
    split <;> rfl
  · rfl

theorem ignoresPending_rxHeader (c : Cfg) (r : RxControl) :
    IgnoresPending (State.rxHeader c r) := by
  intro s p
  simp only [State.rxHeader]
  have e : State.rxcap { s with irqPending := p } = s.rxcap := rfl
  rw [e]
  split
  · rfl
  · rfl
  · simp only [State.rxDataHeader]
    split <;> rfl

theorem ignoresPending_rxBuf (c : Cfg) (rxok : Bool) : IgnoresPending (State.rxBuf c rxok) := by
  intro s p
  simp only [State.rxBuf]
  split
  · split
    · split
      · rfl
      · simp only [State.rxBuffer]
        split <;> first
          | rfl
          | exact ignoresPending_rxHeader ..
          | exact ignoresPending_rxChunk ..
    · rfl
  · rfl

theorem ignoresPending_agcDone : IgnoresPending State.agcDone := by
  intro s p
  simp only [State.agcDone]
  split <;> rfl

theorem ignoresPending_applyNotch (w : Option Nat) :
    IgnoresPending fun s => s.applyNotch w := by
  intro s p
  simp only [State.applyNotch]
  split
  · rfl
  · split <;> rfl

theorem ignoresPending_finishCapture (c : Cfg) : IgnoresPending (State.finishCapture c) := by
  intro s p
  have hw : State.winner c (State.storeMeans c { s with irqPending := p }) =
      (s.storeMeans c).winner c := rfl
  have ha := ignoresPending_applyNotch ((s.storeMeans c).winner c) (s.storeMeans c) p
  rw [State.finishCapture, State.finishCapture, hw]
  exact congrArg State.stopCapture ha

theorem ignoresPending_nextPass (c : Cfg) : IgnoresPending (State.nextPass c) := by
  intro s p
  simp only [State.nextPass]
  split
  · rfl
  · rfl
  · split <;> rfl
  · split <;> rfl
  · exact ignoresPending_finishCapture c s p

theorem ignoresPending_captureDone (c : Cfg) : IgnoresPending (State.captureDone c) := by
  intro s p
  simp only [State.captureDone]
  split <;> first
    | rfl
    | exact ignoresPending_nextPass c s.accumulate p

/-- Every handler but LINK_ERROR's leaves the pending set alone. -/
theorem ignoresPending_handle (c : Cfg) (txok rxok : Bool) {q : IrqSource} (h : q ≠ .linkError) :
    IgnoresPending (State.handle c txok rxok q) := by
  cases q with
  | linkError => exact absurd rfl h
  | csPeak => exact ignoresPending_csPeak
  | txSymbol => exact ignoresPending_txSymbol txok
  | rxSync => exact ignoresPending_rxSync
  | rxNoPeak2 => exact ignoresPending_rxNoPeak2
  | rxBuf => exact ignoresPending_rxBuf c rxok
  | rxAbort => exact ignoresPending_rxAbort
  | agcDone => exact ignoresPending_agcDone
  | captureDone => exact ignoresPending_captureDone c

theorem handle_irqPending_zero (c : Cfg) (txok rxok : Bool) (q : IrqSource) {s : State}
    (h : s.irqPending = 0#9) : (State.handle c txok rxok q s).irqPending = 0#9 := by
  by_cases hq : q = .linkError
  · subst hq; cases s; rfl
  · rw [(ignoresPending_handle c txok rxok hq).irqPending, h]

/-! ## EV_IRQ words -/

/-- An EV_IRQ word of one source runs that source's handler (R407). -/
theorem irqWord_single (c : Cfg) (txok rxok : Bool) (q : IrqSource) {s : State}
    (hi : s.glob.initialised = true) (hp : s.irqPending = 0#9) :
    s.irqWord c (BitVec.twoPow 9 q.bit) txok rxok =
      State.handle c txok rxok q (s.withResult 0#32) := by
  have e : { s.withResult 0#32 with irqPending := 0#9 } = s.withResult 0#32 := by
    cases s; simp only at hp; subst hp; rfl
  rw [State.irqWord, if_neg (by simp [hi]), State.dispatchIrq, irqLoop_single _ 8 q]
  · exact congrArg _ e
  · simp [hp]
  · exact handle_irqPending_zero c txok rxok q rfl

/-- An EV_IRQ word without sources only writes RESULT (R406). -/
theorem irqWord_zero (c : Cfg) (txok rxok : Bool) {s : State}
    (hi : s.glob.initialised = true) (hp : s.irqPending = 0#9) :
    s.irqWord c 0#9 txok rxok = s.withResult 0#32 := by
  have e : { s.withResult 0#32 with irqPending := 0#9 } = s.withResult 0#32 := by
    cases s; simp only at hp; subst hp; rfl
  rw [State.irqWord, if_neg (by simp [hi]), State.dispatchIrq, irqLoop_of_idle]
  · simp only [hp, State.setResult_irqPending]
    exact e
  · simp [hp]

/-! ## Steps -/

/-- What a step that goes on has done: waited, handed a value to a reader, ignored a write, stored
data, run the instruction a word decodes to, or refused the word as INVALID_OPCODE. -/
theorem step_cases {s t : State} (h : step s = .next t) :
    (s.inputs = [] ∧ t = s) ∨
    ∃ rest, s.inputs ≠ [] ∧
      ((∃ v, t = { s with inputs := rest, readData := v }) ∨
       t = { s with inputs := rest } ∨
       (∃ g a n v, canWrite g (regionOf a) = true ∧ accessStop a n = none ∧
         t = State.storeData { s with inputs := rest } a n v) ∨
       (∃ i, exec i { s with inputs := rest } = .next t) ∨
       t = State.setResult { s with inputs := rest } .invalidOpcode) := by
  unfold step at h
  split at h
  · next hi => exact .inl ⟨hi, by cases h; rfl⟩
  · next x rest hi =>
    refine .inr ⟨rest, by simp [hi], ?_⟩
    unfold receive at h
    split at h
    · split at h
      · cases h
      · exact .inl ⟨_, by rw [memRead] at h; cases h; rfl⟩
    · next g a n v =>
      split at h
      · cases h
      · next ha =>
        unfold memWrite at h
        split at h
        · next hw =>
          split at h
          · unfold processWordOn at h
            split at h
            · exact .inr (.inr (.inr (.inl ⟨_, h⟩)))
            · cases h; exact .inr (.inr (.inr (.inr rfl)))
          · cases h; exact .inr (.inr (.inl ⟨g, a, n, v, hw, ha, rfl⟩))
        · cases h; exact .inr (.inl rfl)

end Sys2Proof.Machine
end

