-- ==== Sys2Proof/Laws/Units.lean ====
section
/-! SUPPORT. The frame of each unit's events: which parts of the state an event of the TX machine,
the RX machine or the noise controller, and each stage of PROCESS, can change, the logs only ever
growing. The sharper cases are in the definitions; these are what rules over all words need. -/

namespace Sys2Proof.Machine

/-! ## Predicates over the steps -/

theorem TxStep.busy_iff (t : TxStep) : t.busy = true ↔ t ≠ .idle ∧ t ≠ .cancelled := by
  cases t <;> simp [TxStep.busy, TxStep.prePayload, TxStep.inPayload]

theorem State.txIdle_iff (s : State) :
    s.txIdle = true ↔ s.tx.step = .idle ∧ s.tx.pend = none := by
  simp [State.txIdle]

theorem State.txIdle_eq_false_iff (s : State) :
    s.txIdle = false ↔ ¬(s.tx.step = .idle ∧ s.tx.pend = none) := by
  rw [← s.txIdle_iff, Bool.not_eq_true]

theorem RxStep.receiving_iff (r : RxStep) :
    r.receiving = true ↔ r ≠ .idle ∧ r ≠ .waitReedSolomon ∧ r ≠ .aborted := by
  cases r <;> simp [RxStep.receiving]

/-- A symbol's state is a state of a frame on the air. -/
theorem stepOfSym_busy (flb : Nat) (x : TxSym) : (stepOfSym flb x).busy = true := by
  cases x <;> simp only [stepOfSym] <;> (try split) <;> (try split) <;> rfl

/-! ## TX -/

/-- An event of the TX machine changes its state, the counters and the front-end log. -/
abbrev TxChange (s t : State) : Prop :=
  ∃ tx stats fe, t = { s with tx := tx, stats := stats, feOut := s.feOut ++ fe }

theorem TxChange.refl (s : State) : TxChange s s := ⟨s.tx, s.stats, [], by simp⟩

theorem cancelFrame_change (s : State) : TxChange s s.cancelFrame := ⟨_, _, _, rfl⟩

theorem consumeSymbol_change (t : TxControl) (txok : Bool) (s : State) :
    TxChange s (s.consumeSymbol t txok) := by
  unfold State.consumeSymbol
  split
  · exact .refl s
  · exact ⟨_, _, [], by
      simp only [List.append_nil]
      rfl⟩
  · split
    · exact .refl s
    · unfold State.advanceFrame
      split
      · exact ⟨_, _, _, rfl⟩
      · split
        · unfold State.loadBlock
          split
          · exact ⟨_, s.stats, [_, _, _], by
              simp only [State.enterSymbol, State.emitTxCfg, State.emitFe, List.append_assoc]
              rfl⟩
          · exact ⟨_, s.stats, [_, _], by
              simp only [State.enterSymbol, State.emitTxCfg, State.emitFe, List.append_assoc]
              rfl⟩
        · exact ⟨_, _, _, rfl⟩

theorem txSymbol_change (txok : Bool) (s : State) : TxChange s (s.txSymbol txok) := by
  unfold State.txSymbol
  split
  · split
    · exact .refl s
    · exact consumeSymbol_change ..
  · exact .refl s

/-! ## RX -/

/-- An event of the RX machine changes its state, the counters and the front-end log. -/
abbrev RxChange (s t : State) : Prop :=
  ∃ rx stats fe, t = { s with rx := rx, stats := stats, feOut := s.feOut ++ fe }

theorem RxChange.refl (s : State) : RxChange s s := ⟨s.rx, s.stats, [], by simp⟩

/-- A change without a record. -/
theorem RxChange.quiet {s t : State} {rx : RxMachine} {stats : Vector Word 11}
    (h : t = { s with rx := rx, stats := stats }) : RxChange s t :=
  ⟨rx, stats, [], by rw [h]; simp⟩

theorem rxArm_change (s : State) : RxChange s s.rxArm := by
  unfold State.rxArm
  split
  · exact ⟨_, _, _, rfl⟩
  · exact .refl s

theorem rxToAborted_change (why : Stat) (s : State) : RxChange s (s.rxToAborted why) := .quiet rfl

theorem startBlock_change (c : Cfg) (r : RxControl) (k : Nat) (s : State) :
    RxChange s (s.startBlock c r k) := ⟨_, _, _, rfl⟩

theorem rxSync_change (s : State) : RxChange s s.rxSync := by
  unfold State.rxSync
  split <;> first
    | exact .refl s
    | exact rxToAborted_change _ s
    | (unfold State.rxSyncPeak1
       split
       · exact .refl s
       · exact ⟨_, _, _, rfl⟩)

theorem rxNoPeak2_change (s : State) : RxChange s s.rxNoPeak2 := by
  unfold State.rxNoPeak2
  split <;> first
    | exact .refl s
    | exact rxToAborted_change _ s
    | exact .quiet rfl

theorem rxAbort_change (s : State) : RxChange s s.rxAbort := by
  unfold State.rxAbort
  split
  · exact rxToAborted_change _ s
  · exact .refl s

theorem rxHeader_change (c : Cfg) (r : RxControl) (s : State) : RxChange s (s.rxHeader c r) := by
  unfold State.rxHeader
  simp only
  split
  · exact .quiet rfl
  · exact .quiet rfl
  · unfold State.rxDataHeader
    simp only
    split
    · exact ⟨_, _, _, rfl⟩
    · exact startBlock_change ..

/-! ### RxControl: the bytes of a block -/

section

variable (r : RxControl) (k : Nat) (bytes : List Byte)

@[simp] theorem setBlockBytes_start : (r.setBlockBytes k bytes).start = r.start := rfl
@[simp] theorem setBlockBytes_rxTime : (r.setBlockBytes k bytes).rxTime = r.rxTime := rfl
@[simp] theorem setBlockBytes_fch : (r.setBlockBytes k bytes).fch = r.fch := rfl
@[simp] theorem setBlockBytes_ack : (r.setBlockBytes k bytes).ack = r.ack := rfl
@[simp] theorem setBlockBytes_mod : (r.setBlockBytes k bytes).mod = r.mod := rfl
@[simp] theorem setBlockBytes_sch : (r.setBlockBytes k bytes).sch = r.sch := rfl
@[simp] theorem setBlockBytes_tm : (r.setBlockBytes k bytes).tm = r.tm := rfl
@[simp] theorem setBlockBytes_fl : (r.setBlockBytes k bytes).fl = r.fl := rfl
@[simp] theorem setBlockBytes_nblk : (r.setBlockBytes k bytes).nblk = r.nblk := rfl
@[simp] theorem setBlockBytes_flb : (r.setBlockBytes k bytes).flb = r.flb := rfl
@[simp] theorem setBlockBytes_blen : (r.setBlockBytes k bytes).blen = r.blen := rfl
@[simp] theorem setBlockBytes_blk : (r.setBlockBytes k bytes).blk = r.blk := rfl
@[simp] theorem setBlockBytes_rem : (r.setBlockBytes k bytes).rem = r.rem := rfl
@[simp] theorem setBlockBytes_chunk : (r.setBlockBytes k bytes).chunk = r.chunk := rfl
@[simp] theorem setBlockBytes_out : (r.setBlockBytes k bytes).out = r.out := rfl
@[simp] theorem setBlockBytes_corr : (r.setBlockBytes k bytes).corr = r.corr := rfl
@[simp] theorem setBlockBytes_rsNext : (r.setBlockBytes k bytes).rsNext = r.rsNext := rfl
@[simp] theorem setBlockBytes_evmHdr : (r.setBlockBytes k bytes).evmHdr = r.evmHdr := rfl
@[simp] theorem setBlockBytes_evmPay : (r.setBlockBytes k bytes).evmPay = r.evmPay := rfl
@[simp] theorem setBlockBytes_rssi : (r.setBlockBytes k bytes).rssi = r.rssi := rfl
@[simp] theorem setBlockBytes_lqi : (r.setBlockBytes k bytes).lqi = r.lqi := rfl
@[simp] theorem setBlockBytes_dur : (r.setBlockBytes k bytes).dur = r.dur := rfl

@[simp] theorem takeChunk_start : (r.takeChunk bytes).start = r.start := rfl
@[simp] theorem takeChunk_rxTime : (r.takeChunk bytes).rxTime = r.rxTime := rfl
@[simp] theorem takeChunk_fch : (r.takeChunk bytes).fch = r.fch := rfl
@[simp] theorem takeChunk_ack : (r.takeChunk bytes).ack = r.ack := rfl
@[simp] theorem takeChunk_mod : (r.takeChunk bytes).mod = r.mod := rfl
@[simp] theorem takeChunk_sch : (r.takeChunk bytes).sch = r.sch := rfl
@[simp] theorem takeChunk_tm : (r.takeChunk bytes).tm = r.tm := rfl
@[simp] theorem takeChunk_fl : (r.takeChunk bytes).fl = r.fl := rfl
@[simp] theorem takeChunk_nblk : (r.takeChunk bytes).nblk = r.nblk := rfl
@[simp] theorem takeChunk_flb : (r.takeChunk bytes).flb = r.flb := rfl
@[simp] theorem takeChunk_blen : (r.takeChunk bytes).blen = r.blen := rfl
@[simp] theorem takeChunk_blk : (r.takeChunk bytes).blk = r.blk := rfl
@[simp] theorem takeChunk_rem : (r.takeChunk bytes).rem = r.rem - r.chunk := rfl
@[simp] theorem takeChunk_chunk : (r.takeChunk bytes).chunk = r.chunk := rfl
@[simp] theorem takeChunk_out : (r.takeChunk bytes).out = r.out := rfl
@[simp] theorem takeChunk_corr : (r.takeChunk bytes).corr = r.corr := rfl
@[simp] theorem takeChunk_rsNext : (r.takeChunk bytes).rsNext = r.rsNext := rfl
@[simp] theorem takeChunk_evmHdr : (r.takeChunk bytes).evmHdr = r.evmHdr := rfl
@[simp] theorem takeChunk_evmPay : (r.takeChunk bytes).evmPay = r.evmPay := rfl
@[simp] theorem takeChunk_rssi : (r.takeChunk bytes).rssi = r.rssi := rfl
@[simp] theorem takeChunk_lqi : (r.takeChunk bytes).lqi = r.lqi := rfl
@[simp] theorem takeChunk_dur : (r.takeChunk bytes).dur = r.dur := rfl

end

/-- The received bytes of a block after they are set: they read back, `buf` holds at most 512 of
them (R50), and the other block keeps its own. -/
theorem setBlockBytes_spec (r : RxControl) (k : Nat) (bytes : List Byte)
    (hb : k < r.buf.length) (ho : k < r.bufRest.length) :
    (r.setBlockBytes k bytes).blockBytes k = bytes ∧
      ((r.setBlockBytes k bytes).buf.getD k []).length ≤ 512 ∧
      ∀ j, j ≠ k → (r.setBlockBytes k bytes).blockBytes j = r.blockBytes j := by
  refine ⟨?_, ?_, fun j h => ?_⟩
  · simp [RxControl.blockBytes, RxControl.setBlockBytes, hb, ho]
  · simp [RxControl.setBlockBytes, hb, Config.rxBlockBufBytes]
  · simp [RxControl.blockBytes, RxControl.setBlockBytes, Ne.symm h]

/-- A chunk is appended to its block, whatever the block holds (R317). -/
theorem appendBlock_spec (r : RxControl) (k : Nat) (chunk : List Byte)
    (hb : k < r.buf.length) (ho : k < r.bufRest.length) :
    (r.appendBlock k chunk).blockBytes k = r.blockBytes k ++ chunk :=
  (setBlockBytes_spec r k _ hb ho).1

theorem rxChunk_change (c : Cfg) (r : RxControl) (s : State) : RxChange s (s.rxChunk c r) := by
  unfold State.rxChunk
  simp only
  split
  · unfold State.endBlock
    simp only
    split
    · exact startBlock_change ..
    · exact ⟨_, _, _, rfl⟩
  · exact ⟨_, _, _, rfl⟩

theorem rxBuf_change (c : Cfg) (rxok : Bool) (s : State) : RxChange s (s.rxBuf c rxok) := by
  unfold State.rxBuf
  split
  · split
    · split
      · exact .refl s
      · unfold State.rxBuffer
        split <;> first
          | exact .refl s
          | exact rxToAborted_change _ s
          | exact rxHeader_change ..
          | exact rxChunk_change ..
          | exact startBlock_change ..
          | exact ⟨_, _, _, rfl⟩
    · exact rxToAborted_change _ s
  · exact .refl s

/-! ## Noise controller -/

/-- An event of the noise controller changes its state and the front-end log. -/
abbrev NoiseChange (s t : State) : Prop :=
  ∃ noise fe, t = { s with noise := noise, feOut := s.feOut ++ fe }

theorem NoiseChange.refl (s : State) : NoiseChange s s := ⟨s.noise, [], by simp⟩

theorem NoiseChange.trans {s t u : State} : NoiseChange s t → NoiseChange t u → NoiseChange s u := by
  rintro ⟨n, f, rfl⟩ ⟨m, g, rfl⟩
  exact ⟨m, f ++ g, by simp⟩

theorem abortCapture_change (s : State) : NoiseChange s s.abortCapture := by
  unfold State.abortCapture
  split
  · exact .refl s
  · exact ⟨_, _, rfl⟩

theorem agcDone_change (s : State) : NoiseChange s s.agcDone := by
  unfold State.agcDone
  split
  · exact ⟨_, _, rfl⟩
  · exact .refl s

theorem applyNotch_change (w : Option Nat) (s : State) : NoiseChange s (s.applyNotch w) := by
  unfold State.applyNotch
  split
  · exact ⟨_, _, rfl⟩
  · split
    · exact ⟨_, _, rfl⟩
    · exact .refl s

/-- A change without a record. -/
theorem NoiseChange.quiet {s t : State} {noise : NoiseUnit} (h : t = { s with noise := noise }) :
    NoiseChange s t := ⟨noise, [], by rw [h]; simp⟩

theorem storeMeans_change (c : Cfg) (s : State) : NoiseChange s (s.storeMeans c) := .quiet rfl

theorem stopCapture_change (s : State) : NoiseChange s s.stopCapture := .quiet rfl

theorem accumulate_change (s : State) : NoiseChange s s.accumulate := .quiet rfl

theorem finishCapture_change (c : Cfg) (s : State) : NoiseChange s (s.finishCapture c) := by
  rw [State.finishCapture]
  exact ((storeMeans_change c s).trans (applyNotch_change _ _)).trans (stopCapture_change _)

theorem enterPass_change (step : NoiseStep) (k idx : Nat) (s : State) :
    NoiseChange s (s.enterPass step k idx) := ⟨_, _, rfl⟩

theorem nextPass_change (c : Cfg) (s : State) : NoiseChange s (s.nextPass c) := by
  unfold State.nextPass
  split
  · exact .refl s
  · exact .refl s
  · split <;> exact enterPass_change ..
  · split <;> exact enterPass_change ..
  · exact finishCapture_change c s

theorem captureDone_change (c : Cfg) (s : State) : NoiseChange s (s.captureDone c) := by
  unfold State.captureDone
  split <;> first
    | exact .refl s
    | exact (accumulate_change s).trans (nextPass_change c _)

/-! ## All events -/

/-- An event other than LINK_ERROR changes the three machines, the counters and the front-end
log. -/
abbrev EventChange (s t : State) : Prop :=
  ∃ tx rx noise stats fe,
    t = { s with tx := tx, rx := rx, noise := noise, stats := stats, feOut := s.feOut ++ fe }

theorem EventChange.trans {s t u : State} : EventChange s t → EventChange t u → EventChange s u := by
  rintro ⟨a, b, n, x, f, rfl⟩ ⟨a', b', n', x', g, rfl⟩
  exact ⟨a', b', n', x', f ++ g, by simp⟩

theorem TxChange.event {s t : State} : TxChange s t → EventChange s t := by
  rintro ⟨a, x, f, rfl⟩
  exact ⟨_, _, _, _, _, rfl⟩

theorem RxChange.event {s t : State} : RxChange s t → EventChange s t := by
  rintro ⟨a, x, f, rfl⟩
  exact ⟨_, _, _, _, _, rfl⟩

theorem NoiseChange.event {s t : State} : NoiseChange s t → EventChange s t := by
  rintro ⟨a, f, rfl⟩
  exact ⟨_, _, _, _, _, rfl⟩

theorem csPeak_change (s : State) : EventChange s s.csPeak := by
  unfold State.csPeak
  split
  · exact (TxChange.refl s).event
  · refine EventChange.trans ?_ (rxArm_change _).event
    refine EventChange.trans ?_ (abortCapture_change _).event
    split
    · exact (cancelFrame_change s).event
    · exact (TxChange.refl s).event

/-- What a handler other than LINK_ERROR's can change. -/
theorem handle_change (c : Cfg) (txok rxok : Bool) {q : IrqSource} (h : q ≠ .linkError)
    (s : State) : EventChange s (s.handle c txok rxok q) := by
  cases q with
  | linkError => exact absurd rfl h
  | csPeak => exact csPeak_change s
  | txSymbol => exact (txSymbol_change txok s).event
  | rxSync => exact (rxSync_change s).event
  | rxNoPeak2 => exact (rxNoPeak2_change s).event
  | rxBuf => exact (rxBuf_change c rxok s).event
  | rxAbort => exact (rxAbort_change s).event
  | agcDone => exact (agcDone_change s).event
  | captureDone => exact (captureDone_change c s).event

/-! ## Stages of PROCESS -/

/-- Stage 1 changes ImpedanceState, the host log and the TX machine's slot and step. -/
theorem deliverConfirm_change (c : Cfg) (s : State) :
    ∃ imp host tx, s.deliverConfirm c =
        { s with imp := imp, hostOut := s.hostOut ++ host, tx := { s.tx with
          step := tx
          pend := none } } := by
  unfold State.deliverConfirm
  split
  · next h => exact ⟨s.imp, [], s.tx.step, by rw [← h]; simp⟩
  · unfold State.deliver State.adaptGain
    simp only
    split <;> exact ⟨_, _, _, rfl⟩

/-- Stage 2 changes the RX machine, the counters, last_lqi and the host log. -/
theorem rxDeferred_change (c : Cfg) (s : State) :
    ∃ rx stats lqi host, s.rxDeferred c =
      { s with rx := rx, stats := stats, lastLqi := lqi, hostOut := s.hostOut ++ host } := by
  have quiet : ∀ (rx : RxMachine) (stats : Vector Word 11), ∃ rx' stats' lqi host,
      ({ s with rx := rx, stats := stats } : State) =
        { s with rx := rx', stats := stats', lastLqi := lqi, hostOut := s.hostOut ++ host } :=
    fun rx stats => ⟨rx, stats, s.lastLqi, [], by simp⟩
  have ind : ∀ i, ∃ rx stats lqi host, s.deliverInd i =
      { s with rx := rx, stats := stats, lastLqi := lqi, hostOut := s.hostOut ++ host } :=
    fun _ => ⟨_, _, _, _, rfl⟩
  unfold State.rxDeferred
  split <;> try exact quiet s.rx s.stats
  · unfold State.rxWait
    split
    · exact quiet s.rx s.stats
    · split
      · exact ind _
      · unfold State.rsDecodeBlock
        split
        · exact quiet ..
        · split
          · exact quiet ..
          · unfold State.rsBlockDone
            simp only
            split
            · exact ind _
            · exact quiet _ s.stats
  · exact quiet _ s.stats

/-- Stage 3 changes the noise controller, its due time and the front-end log. -/
theorem noiseTrigger_change (s : State) :
    ∃ noise due fe, s.noiseTrigger =
      { s with
        noise := noise
        glob := { s.glob with noiseDueMs := due }
        feOut := s.feOut ++ fe } := by
  unfold State.noiseTrigger
  split
  · exact ⟨_, _, _, rfl⟩
  · exact ⟨s.noise, s.glob.noiseDueMs, [], by simp⟩

/-- Stage 4 does nothing, or reinitialises with counters and perhaps a host record. -/
theorem watchdogs_cases (c : Cfg) (s : State) :
    s.watchdogs c = s ∨ ∃ stats host, s.watchdogs c =
      { s.freshPhy c with stats := stats, hostOut := s.hostOut ++ host } := by
  unfold State.watchdogs
  split
  · exact .inr ⟨_, _, rfl⟩
  · split
    · exact .inr ⟨_, [], by simp only [List.append_nil]; rfl⟩
    · exact .inl rfl

end Sys2Proof.Machine
end

