-- ==== Sys2Proof/Tests/Slice0.lean ====
section
/-! SUPPORT. The model's own tests. Expected values come from spec/: the encodings of 30_encoding.md,
the worked examples of 95_test_vectors.md and of the rules named at each test. The witnesses at the
end show, for each statement with hypotheses, a state and operands that meet them. -/

namespace Sys2Proof.Tests

open Sys2Proof.Machine

/-! ## Small states -/

/-- TV with a corrector that always fails (R18). -/
def tvFail : Cfg := { Config.tv with rsDecode := fun _ _ => none }

/-- "Fresh" in band b (R371). -/
def fresh (b : Band) : State :=
  { State.reset with glob := { State.reset.glob with initialised := true, band := b } }

def withWin (s : State) (f : Window → Window) : State := { s with win := f s.win }
def withTx (s : State) (step : TxStep) (ctl : Option TxControl) (pend : Option Pending) : State :=
  { s with tx := { step := step, ctl := ctl, pend := pend } }
def withRx (s : State) (step : RxStep) (ctl : Option RxControl) : State :=
  { s with rx := { step := step, sub := .none, ctl := ctl } }
def withNoise (s : State) (step : NoiseStep) (k : BitVec 8) : State :=
  { s with noise := { s.noise with step := step, k := k } }
def atTime (s : State) (t : Word) : State := { s with glob := { s.glob with timeMs := t } }
def withParam (s : State) (v : Word) : State := withWin s fun w => { w with paramData := v }

/-- A frame with this symbol sequence, at position `pos`. -/
def frame (seq : List TxSym) (pos : Nat) : TxControl where
  mod := .bpsk
  sch := .differential
  dt := .dataNoResp
  pwr := 3#4
  noadapt := false
  fch := []
  seq := seq
  pos := pos
  flb := 2
  blks := [[0xDE#8]]
  parity := 15
  start := 0#32

/-- A reception of a data frame of `n` blocks, with `rem` symbols left of the current one. -/
def reception (n rem chunk : Nat) : RxControl :=
  { RxControl.fresh 0#32 with
    nblk := n
    flb := 5
    blen := [1, 1]
    rem := rem
    chunk := chunk
    buf := [[7#8], [8#8]] }

/-- The state a test reads a field of. -/
def after (o : Host.Outcome State Fault Refusal) : State :=
  match o with
  | .next s => s
  | .fault _ => State.reset
  | .refused _ => State.reset

/-! ## WellFormed: an ill-formed word for each check -/

theorem test_wf_reserved_opcode : opcodeAssigned 0x1C000000#32 = false := by decide
theorem test_wf_opcode_zero : opcodeAssigned 0#32 = false := by decide
theorem test_wf_wrong_port : opcodeOnPort .cmd 0x80000001#32 = false := by decide
theorem test_wf_wrong_port_evt : opcodeOnPort .evt 0x14000000#32 = false := by decide
theorem test_wf_reserved_bit : reservedBitsClear 0x04000004#32 = false := by decide
theorem test_wf_word : wellFormedWord .evt 0x80030204#32 = false := by decide
theorem test_wf_instr_port : Instr.wellFormedOn .cmd (.evTick 5#16) = false := by decide
theorem test_wf_good : wellFormedWord .cmd 0x09008040#32 = true := by decide

/-! ## Decode: words written out from R112 to R118, bit fields from the high end down -/

/-- R112: 000001 | 0[25:2] | 11. -/
theorem test_decode_init : decode .cmd 0b00000100000000000000000000000011#32 =
    .instr (.init .arib) := by decide
/-- R113: 000010 | mod 11 | sch 1 | dt 01 | pwr 1010 | noadapt 1 | imm 0 | 000000 | len 101010101. -/
theorem test_decode_transmit : decode .cmd 0b00001011101101010000000101010101#32 =
    .instr (.transmit .psk8 .coherent .dataResp 0b1010#4 true false 0b101010101#9) := by decide
/-- R113: mod 00 | sch 0 | dt 10 | pwr 0101 | noadapt 0 | imm 1 | len 0. -/
theorem test_decode_transmit_ack : decode .cmd 0b00001000010010101000000000000000#32 =
    .instr (.transmit .robo .differential .ack 5#4 false true 0#9) := by decide
/-- R114: 000011 | 0[25:16] | id 0x0124. -/
theorem test_decode_getParam : decode .cmd 0b00001100000000000000000100100100#32 =
    .instr (.getParam 0x0124#16) := by decide
/-- R114: 000100 | 0[25:16] | id 0x0011. -/
theorem test_decode_setParam : decode .cmd 0b00010000000000000000000000010001#32 =
    .instr (.setParam 0x0011#16) := by decide
/-- R115. -/
theorem test_decode_process : decode .cmd 0b00010100000000000000000000000000#32 =
    .instr .process := by decide
/-- R116. -/
theorem test_decode_cancel : decode .cmd 0b00011000000000000000000000000000#32 =
    .instr .cancel := by decide
/-- R117: 100000 | 0[25:18] | rxok 0 | txok 1 | 0[15:9] | src 100000010. -/
theorem test_decode_evIrq : decode .evt 0b10000000000000010000000100000010#32 =
    .instr (.evIrq 0b100000010#9 true false) := by decide
/-- R118: 100001 | 0[25:16] | delta 0xFFFF. -/
theorem test_decode_evTick : decode .evt 0b10000100000000001111111111111111#32 =
    .instr (.evTick 0xFFFF#16) := by decide
/-- R119, R120. -/
theorem test_decode_rejects :
    decode .cmd 0x14000001#32 = .reject .reservedBits ∧
      decode .cmd 0x80030004#32 = .reject .wrongPort ∧
      decode .evt 0x88000000#32 = .reject .reservedOpcode := by decide
theorem test_table_word : decodeTableWord 32 0x80030004 = some (.evIrq 4#9 true true) := by decide
theorem test_encode : encode (.transmit .qpsk .differential .dataNoResp 0#4 false true 400#9) =
    0x0A008190#32 := by decide

/-! ## One step of each word -/

/-- R112: INIT FCC initialises and emits FE_RESET with FCC. -/
theorem test_init : (after (step (State.reset.withFetchWord 32 0x04000002))).feOut =
    [.reset .fcc] := by decide
/-- R371: TRANSMIT with len 0 on a fresh block. -/
theorem test_transmit_length :
    (after (exec (.transmit .bpsk .differential .dataNoResp 0#4 false true 0#9)
      (fresh .cenelecA))).hostOut = [.confirm .invalidLength 0#32 0#32] := by decide
/-- R371: TX_TONEMAP = 0x40 in CENELEC-A is INVALID_TONEMAP. -/
theorem test_transmit_tonemap :
    (after (exec (.transmit .bpsk .differential .dataNoResp 0#4 false true 10#9)
      (withWin (fresh .cenelecA) fun w => { w with txTonemap := 0x40#24 }))).win.result =
        5#32 := by decide
/-- R371: GETP BAND on a fresh block. -/
theorem test_getParam_band :
    (after (exec (.getParam 0x0033#16) (fresh .cenelecA))).win.paramData = 0x80000000#32 := by
  decide
/-- R371: NOISE_POWER[36] does not exist in CENELEC-A. -/
theorem test_getParam_bound :
    (after (exec (.getParam 0x0124#16) (fresh .cenelecA))).win.result = 7#32 := by decide
/-- R371: STATIC_NOTCH_W1 = 0xFFFFFFFF is masked to 36 carriers. -/
theorem test_setParam_notch :
    notchWord (after (exec (.setParam 0x0001#16)
      (withParam (fresh .cenelecA) 0xFFFFFFFF#32))).glob.staticNotch 1 = 0x0000000F#32 := by decide
/-- R371: NOISE_INTERVAL_MS = 0 is refused. -/
theorem test_setParam_interval :
    (after (exec (.setParam 0x0013#16) (fresh .fcc))).win.result = 7#32 := by decide
/-- R371: IMPEDANCE 0x00000A01 has a gain below GMIN, 0x00008001 is taken. -/
theorem test_setParam_impedance :
    (State.setParamWord Config.tv 0x0011#16 (withParam (fresh .cenelecA) 0x00000A01#32)).win.result =
        7#32 ∧
      (State.setParamWord Config.tv 0x0011#16 (withParam (fresh .cenelecA) 0x00008001#32)).imp =
        { coupling := .low, gain := 128#8, autoDetect := false, lastRms := 0#32 } := by decide
/-- R248, first row, through a delivered confirmation (R368). -/
theorem test_process_gain :
    (State.processWord Config.tv { withTx (fresh .cenelecA) .idle none
        (some ⟨.success, 0#32, 900#32, true, 0#4⟩) with imp := .reset Config.tv }).imp =
      { coupling := .low, gain := 160#8, autoDetect := true, lastRms := 900#32 } := by decide
/-- R369: PROCESS before INIT. -/
theorem test_process_notInit : (after (exec .process State.reset)).win.result = 9#32 := by decide
/-- R371: CANCEL of a frame at HeaderFirst counts TX_CANCEL. -/
theorem test_cancel :
    (after (exec .cancel
      (withTx (fresh .cenelecA) .headerFirst (some (frame [.hdr 1] 0)) none))).stats[2] =
        1#32 := by decide
/-- R371: CANCEL at PayloadFirst. -/
theorem test_cancel_payload :
    (after (exec .cancel
      (withTx (fresh .cenelecA) .payloadFirst (some (frame [.pay 0 1] 0)) none))).win.result =
        2#32 := by decide
/-- R273: the TX_SYMBOL before PAY(0, 1) loads block 0. -/
theorem test_evIrq_block :
    (after (exec (.evIrq 4#9 true true)
      (withTx (fresh .cenelecA) .header
        (some (frame [.hdr 13, .pay 0 1, .pay 0 2, .fin] 0)) none))).feOut =
      [.txBlock 0 [0xDE#8] 15, .txCfg (.pay 0 1) none] := by decide
/-- R408: a CS_PEAK in the word of a TX_SYMBOL wins. -/
theorem test_evIrq_collision :
    (after (exec (.evIrq 6#9 true true)
      (withTx (fresh .cenelecA) .header
        (some (frame [.hdr 13, .pay 0 1, .pay 0 2, .fin] 0)) none))).feOut =
      [.txAbort, .rxArm] := by decide
/-- R372: TICK 2 at 0xFFFFFFFF wraps to 1. -/
theorem test_evTick :
    (after (exec (.evTick 2#16) (atTime (fresh .arib) 0xFFFFFFFF#32))).glob.timeMs = 1#32 := by
  decide

/-! ## Units -/

/-- R162, CENELEC-B row 2. -/
theorem test_inactiveMask : inactiveMask .cenelecB 0x6#24 = 0xF00F#128 := by decide
/-- R184's reference values. -/
theorem test_crc5 : crc Config.crc5Poly (true :: List.replicate 27 false) = 0x1D#5 := by decide +kernel
theorem test_crc8 : crc Config.crc8Poly (true :: List.replicate 57 false) = 0xD9#8 := by decide +kernel
/-- R198, row 1. -/
theorem test_encodeData : encodeData .cenelecA
    { pdc := 0#8, mod := .bpsk, sch := .differential, dt := .dataNoResp, tm := 0x3F#24, fl := 18,
      rsb := false } = [0x00#8, 0x42#8, 0x5F#8, 0x8F#8, 0x80#8] := by decide +kernel
/-- R286 (b). -/
theorem test_encodeAck : encodeAck .cenelecA [0x11#8, 0x22#8, 0x33#8, 0x44#8, 0x55#8] =
    [0x11#8, 0x22#8, 0x33#8, 0x43#8, 0x80#8] := by decide +kernel
/-- R322's examples for blocks of 18 and 9 symbols. -/
theorem test_chunks : chunkSchedule 4 18 18 = [4, 4, 4, 3, 3] ∧ chunkSchedule 4 9 9 = [4, 2, 3] := by
  decide
/-- R231, rows 2 and 4. -/
theorem test_notch :
    selectNotch Config.tv .cenelecA 0#128 (fun i => if i = 10 then 50 else 30) = some 10 ∧
      selectNotch Config.tv .cenelecA 0#128 (fun i => if i = 0 then 60 else 30) = none := by decide
/-- R218's examples. -/
theorem test_decibel : dbOf Config.defaultDbLut 31622 = 44 ∧
    dbOf Config.defaultDbLut 31623 = 45 ∧ dbOf Config.defaultDbLut 0 = 0 := by decide

/-! ## Witnesses: each statement's hypotheses are met, clause by clause -/

/-- The hypotheses most statements about one event share. -/
abbrev ready (s : State) : Prop := s.glob.initialised = true ∧ s.irqPending = 0#9

theorem witness_AcceptedWordsAreTableWords : decode .evt 0x840003E8#32 = .instr (.evTick 1000#16) :=
  by decide

theorem witness_ReservedWordRefused : opcodeAssigned 0x1C000000#32 = false ∧
    reservedBitsClear 0x04000004#32 = false ∧ opcodeOnPort .evt 0x18000000#32 = false := by decide

theorem witness_StepRunsDecodedInstruction :
    { State.reset with inputs := [wordWrite .cmd 0x14000000#32] }.inputs =
        wordWrite .cmd 0x14000000#32 :: [] ∧ decode .cmd 0x14000000#32 = .instr .process ∧
      decode .evt 0x14000000#32 = .reject .wrongPort ∧
      decodeTableWord 32 0x14000000 = some .process := by decide

theorem witness_RightsViolations : accessStop 0x300 .b1 = none ∧ accessStop 0x6FC .b4 = none ∧
    accessStop 0x100 .b4 = none ∧ accessStop 0x2FF .b1 = none := by decide

theorem witness_ReservedAddresses : accessStop 0x01C .b4 = none ∧ accessStop 0x038 .b4 = none ∧
    accessStop 0x0FC .b4 = none ∧ accessStop 0x700 .b2 = none ∧ accessStop 0x7FE .b4 = none ∧
    accessStop 0x800 .b1 = none ∧ 0x038 ≤ 0x0FC ∧ 0x700 ≤ 0x800 := by decide

theorem witness_AccessWidthAndAlignment :
    ¬(Width.b2 = .b4 ∧ 0 % 4 = 0) ∧ ¬(Width.b4 = .b4 ∧ 0x0FE % 4 = 0) ∧
      0x101 % Width.b2.bytes ≠ 0 ∧ 0x4FE % Width.b4.bytes ≠ 0 ∧
      ¬(Width.b1 = .b4 ∧ 0x500 % 4 = 0) ∧ ¬(Width.b4 = .b4 ∧ 0x6FE % 4 = 0) ∧
      0x0FC % 4 = 0 ∧ 0x100 % Width.b4.bytes = 0 ∧ 0x4FF % Width.b1.bytes = 0 ∧
      0x6FC % 4 = 0 ∧ 0x700 ≤ 0x700 ∧ 0x700 ≤ 0x801 := by decide

theorem witness_AccessEffects :
    (∃ t, receive (.read .host 0x004 .b4) State.reset = .next t) ∧
      ∃ t, receive (.write .host 0x008 .b4 7#32) State.reset = .next t := ⟨⟨_, rfl⟩, ⟨_, rfl⟩⟩

theorem witness_BufferStoreThenLoad :
    State.reset.MemoryInForm ∧
      (accessStop 0x100 .b1 = none ∧ canWrite .host (regionOf 0x100) = true ∧
        canRead .frontEnd (regionOf 0x100) = true) ∧
      (accessStop 0x4FE .b2 = none ∧ canWrite .frontEnd (regionOf 0x4FE) = true ∧
        canRead .host (regionOf 0x4FE) = true) ∧
      (accessStop 0x6FC .b4 = none ∧ canWrite .frontEnd (regionOf 0x6FC) = true ∧
        canRead .host (regionOf 0x6FC) = true) :=
  ⟨⟨Memory.wf_nil, fun _ h => nomatch h⟩, by decide, by decide, by decide⟩

/-- A state that has a word to receive. -/
def waiting : State := State.reset.withFetchWord 32 0x04000002

theorem witness_ConsistencyKept : waiting.Consistent ∧ ∃ t, step waiting = .next t :=
  ⟨by decide, ⟨_, rfl⟩⟩

theorem witness_FieldInvariantsKept :
    (waiting.TxTracksSymbol ∧ waiting.SubNamesChunk ∧ waiting.NotchInBand ∧
      waiting.IntervalNonzero ∧ waiting.SlotEmptyOnAir ∧ waiting.BuffersBounded ∧
      waiting.BlockNumbered) ∧
      ∃ t, step waiting = .next t :=
  ⟨⟨(fun _ h => nomatch h), by decide, by decide, by decide, by decide, (fun _ h => nomatch h),
    fun _ h => nomatch h⟩, ⟨_, rfl⟩⟩

theorem witness_GainBoundsKept :
    waiting.GainInBounds Config.cfg ∧ ∃ t, step waiting = .next t := by
  refine ⟨?_, ⟨_, rfl⟩⟩
  have h := Config.cfg_gain .high
  simp only [State.GainInBounds, waiting, State.withFetchWord, State.reset, Impedance.reset,
    BitVec.toNat_ofNat]
  omega

theorem witness_MemoryFormKept : waiting.MemoryInForm ∧ ∃ t, step waiting = .next t :=
  ⟨⟨Memory.wf_nil, fun _ h => nomatch h⟩, ⟨_, rfl⟩⟩

/-- For FieldWriters, ImpedanceWriters and LogsOnlyGrow. -/
theorem witness_exec_answers :
    (∃ t, exec (.init .arib) (fresh .fcc) = .next t) ∧ (∃ t, exec .process (fresh .fcc) = .next t) ∧
      (∃ t, exec (.evIrq 0x1FF#9 true true) (fresh .fcc) = .next t) ∧
      (fresh .fcc).glob.initialised = true ∧ (0#9 ||| 0x1FF#9).getLsbD 0 = true :=
  ⟨⟨_, rfl⟩, ⟨_, rfl⟩, ⟨_, rfl⟩, by decide⟩

theorem witness_LinkErrorReinitialises :
    (fresh .arib).glob.initialised = true ∧ (0x1FF#9).getLsbD 0 = true := by decide

theorem witness_WordsBeforeInit : State.reset.glob.initialised = false := by decide

theorem witness_IrqWordSplits : (fresh .fcc).glob.initialised = true ∧
    (fresh .fcc).irqPending = 0#9 ∧ (0x1FE#9).getLsbD 0 = false := by decide

theorem witness_TransmitBusy :
    (let s := withRx (fresh .fcc) .peak1 (some (.fresh 0#32))
     s.glob.initialised = true ∧ s.rx.step ≠ .idle) ∧
    (let s := withTx (fresh .fcc) .idle none (some (failedPending .timeout 0#32))
     s.glob.initialised = true ∧ s.rx.step = .idle ∧ ¬(s.tx.step = .idle ∧ s.tx.pend = none)) := by
  decide

/-- A fresh CENELEC-A block with this tone map and time, TX_TIME 9. -/
def toSend (tm : ToneMap) (t : Word) : State :=
  withWin (atTime (fresh .cenelecA) t) fun w => { w with txTonemap := tm, txTime := 9#32 }

theorem witness_TransmitIdle (tm : ToneMap) (t : Word) :
    (toSend tm t).glob.initialised = true ∧ (toSend tm t).rx.step = .idle ∧
      (toSend tm t).tx.step = .idle ∧ (toSend tm t).tx.pend = none := ⟨rfl, rfl, rfl, rfl⟩

/-- The clauses of FrameRejected, with `witness_TransmitIdle`: the two ends of the bad lengths,
reserved tone-map bits, no carriers, a frame of more than 511 symbols, a late start. -/
theorem witness_FrameRejected :
    (¬(1 ≤ (0#9).toNat ∧ (0#9).toNat ≤ maxpay .cenelecA .bpsk)) ∧
    (¬(1 ≤ (241#9).toNat ∧ (241#9).toNat ≤ maxpay .cenelecA .bpsk)) ∧
    (1 ≤ (240#9).toNat ∧ (240#9).toNat ≤ maxpay .cenelecA .bpsk ∧
      ¬(0x40#24 >>> Config.tmBits .cenelecA = 0#24)) ∧
    (0x3F#24 >>> Config.tmBits .cenelecA = 0#24) ∧
    payloadCarrierCount Config.cfg .cenelecA 0#24 0#128 .differential = 0 ∧
    payloadCarrierCount Config.cfg .cenelecA 1#24 0#128 .differential ≠ 0 ∧
    511 < (frameLength .cenelecA 248 .robo
      (payloadCarrierCount Config.cfg .cenelecA 1#24 0#128 .differential)).fl ∧
    (frameLength .cenelecA 10 .bpsk
      (payloadCarrierCount Config.cfg .cenelecA 1#24 0#128 .differential)).fl ≤ 511 ∧
    ((toSend 1#24 10#32).win.txTime - (toSend 1#24 10#32).glob.timeMs).toInt < 0 := by
  decide +kernel

/-- DataFrameAccepted, with `witness_TransmitIdle`: one block, and a start time equal to now. -/
theorem witness_DataFrameAccepted :
    1 ≤ (4#9).toNat ∧ (4#9).toNat ≤ maxpay .cenelecA .bpsk ∧
    (toSend 0x3F#24 9#32).win.txTonemap >>> Config.tmBits .cenelecA = 0#24 ∧
    payloadCarrierCount Config.cfg .cenelecA 0x3F#24 0#128 .differential ≠ 0 ∧
    (frameLength .cenelecA 4 .bpsk
      (payloadCarrierCount Config.cfg .cenelecA 0x3F#24 0#128 .differential)).fl ≤ 511 ∧
    0 ≤ ((toSend 0x3F#24 9#32).win.txTime - (toSend 0x3F#24 9#32).glob.timeMs).toInt := by
  decide +kernel

/-- With `witness_TransmitIdle`; the caller's bytes of R198's last example name an ACK. -/
theorem witness_ControlFrameAccepted :
    (let raw : List Byte := [0x11#8, 0x22#8, 0x33#8, 0x44#8, 0x55#8]
     raw.length = Config.fchLen .cenelecA ∧ RecordNames .cenelecA raw .robo .ack .differential) ∧
    0 ≤ ((toSend 0#24 9#32).win.txTime - (toSend 0#24 9#32).glob.timeMs).toInt := by decide

theorem witness_CancelWord :
    (let s := withTx (fresh .fcc) .cohSync (some (frame [] 0)) none
     ready s ∧
       s.tx.step ∈ [TxStep.preambleFirst, .preambleLast, .headerFirst, .header, .cohSync]) ∧
    (let s := withTx (fresh .fcc) .payloadFirst (some (frame [] 0)) none
     ready s ∧ s.tx.step ∈ [TxStep.payloadFirst, .payload, .payloadLast, .endSymbol]) ∧
    (ready (fresh .fcc) ∧ (fresh .fcc).tx.step ∈ [TxStep.idle, .cancelled]) := by decide

theorem witness_GetParamValues :
    Config.total (fresh .arib).glob.band = 54 ∧ (0x002F#16).toNat = 0x2F ∧
      ¬(0x100 ≤ (0x0136#16).toNat ∧ (0x0136#16).toNat < 0x100 + Config.total .arib) ∧
      ¬(0x180 ≤ (0x017F#16).toNat ∧ (0x017F#16).toNat < 0x180 + Config.total .arib) := by decide

/-- Before a payload block: Idle, CohS2 and an ACK/NACK reception. -/
theorem witness_GetParamValues_rxState :
    (fresh .fcc).BlockNumbered ∧ (fresh .fcc).rx.step = .idle ∧
    (let s := withRx (fresh .fcc) .cohS2 (some (reception 2 0 0))
     s.BlockNumbered ∧ s.rx.step = .cohS2) ∧
    (let r := { RxControl.fresh 0#32 with ack := true }
     let s := withRx (fresh .fcc) .waitReedSolomon (some r)
     s.BlockNumbered ∧ s.rx.ctl = some r ∧ r.ack = true) := by
  refine ⟨(fun _ h => nomatch h), by decide, ⟨?_, by decide⟩, ?_, by decide⟩
  · intro r h
    cases h
    decide
  · intro r h
    cases h
    decide

theorem witness_SetParamSettings :
    (fresh .fcc).win.paramData = 0#32 ∧ (withParam (fresh .fcc) 5#32).win.paramData ≠ 0#32 ∧
      (0x0014#16).toNat ∉ [0x00, 0x01, 0x02, 0x03, 0x10, 0x11, 0x12, 0x13, 0x2F] := by decide

theorem witness_SetStaticNotch :
    (let s := withRx (fresh .fcc) .aborted (some (.fresh 0#32))
     ready s ∧ s.rx.step ≠ .idle) ∧
      (let s := withTx (fresh .fcc) .idle none (some (failedPending .timeout 0#32))
       ready s ∧ s.rx.step = .idle ∧ ¬(s.tx.step = .idle ∧ s.tx.pend = none)) ∧
      State.reset.glob.initialised = false ∧
      ((fresh .fcc).rx.step = .idle ∧ (fresh .fcc).tx.step = .idle ∧ (fresh .fcc).tx.pend = none) :=
  by decide

theorem witness_SetImpedance :
    (0x00008003#32).extractLsb' 0 2 = 3#2 ∧ 0x00018001#32 &&& 0xFFFF00F8#32 ≠ 0#32 ∧
      (0x00000F01#32).extractLsb' 0 2 = 1#2 ∧ 0x00000F01#32 &&& 0xFFFF00F8#32 = 0#32 ∧
      ((0x00000F01#32).extractLsb' 8 8).toNat < Config.tv.gmin .low ∧
      Config.tv.gmin .low ≤ ((0x00001001#32).extractLsb' 8 8).toNat ∧
      ((0x0000FF01#32).extractLsb' 8 8).toNat ≤ Config.tv.gmax .low ∧
      (let s := withParam (fresh .fcc) 0x0000FF01#32
       ready s ∧ s.win.paramData = 0x0000FF01#32 ∧ s.tx.step = .idle ∧ s.tx.pend = none) ∧
      (let s := withParam (withTx (fresh .fcc) .idle none (some (failedPending .timeout 0#32)))
        0x00001001#32
       ready s ∧ s.win.paramData = 0x00001001#32 ∧ ¬(s.tx.step = .idle ∧ s.tx.pend = none)) := by
  decide

/-- A mask that leaves no carrier, and one that leaves two (R162). -/
theorem witness_CarrierCounts :
    (∀ i, i < Config.total .cenelecB → (0xFFFF#128).getLsbD i = true) ∧
      (0xBFFE#128).getLsbD 0 = false ∧ (0xBFFE#128).getLsbD 14 = false ∧
      (0xBFFE#128).getLsbD 15 = true := by decide

theorem witness_LengthArithmetic :
    1 ≤ 1 ∧ 1 ≤ maxpay .fcc .psk8 ∧ 480 ≤ maxpay .fcc .psk8 := by decide

/-- The records of R198: sealed, one with two blocks, and one that is not sealed (E9). -/
theorem witness_FchRecords :
    (let raw : List Byte := [0x00#8, 0x42#8, 0x5F#8, 0x8F#8, 0x80#8]
     raw.length = Config.fchLen .cenelecA ∧ RecordSealed .cenelecA raw ∧
       RecordNames .cenelecA raw .bpsk .dataNoResp .differential ∧ recordField raw 10 9 = 18) ∧
    (let raw : List Byte :=
      [0x00#8, 0x83#8, 0x1F#8, 0xFF#8, 0xFF#8, 0xE1#8, 0x00#8, 0x06#8, 0xC0#8]
     raw.length = Config.fchLen .fcc ∧ RecordSealed .fcc raw ∧
       RecordNames .fcc raw .qpsk .dataNoResp .differential ∧ recordField raw 47 1 = 1) ∧
    ¬RecordSealed .cenelecA [0x80#8, 0x40#8, 0xBF#8, 0x82#8, 0x80#8] := by
  simp only [RecordSealed, Config.layout]
  decide +kernel

theorem witness_FchRoundTrip :
    0x3F#24 >>> Config.tmBits .cenelecA = 0#24 ∧
      payloadCarrierCount Config.tv .cenelecA 0x3F#24 0#128 .coherent ≠ 0 ∧
      (let f := frameLength .cenelecA 200 .psk8
        (payloadCarrierCount Config.tv .cenelecA 0x3F#24 0#128 .coherent)
       f.fl ≤ 511 ∧ Config.tv.minPayload + 1 ≤ f.lb) := by decide +kernel

theorem witness_SingleBitErrorsDetected : 0 < 8 * Config.fchLen .cenelecA ∧
    71 < 8 * Config.fchLen .arib ∧ [0#8, 1#8, 2#8, 3#8, 4#8].length = Config.fchLen .cenelecB := by
  decide

theorem witness_TxSymbolAdvances :
    (let t := frame [.pre 1, .pre 2] 0
     let s := withTx (fresh .fcc) .preambleFirst (some t) none
     s.glob.initialised = true ∧ s.irqPending = 0#9 ∧ s.tx.step ≠ .idle ∧
       s.tx.step ≠ .cancelled ∧ s.tx.ctl = some t ∧ t.seq[t.pos]? = some (.pre 1) ∧
       TxSym.pre 1 ≠ .fin ∧ t.seq[t.pos + 1]? = some (.pre 2)) ∧
    (∀ k, TxSym.pre 2 ≠ .pay k 1) ∧
    (let t := frame [.pay 0 2, .pay 1 1] 0
     let s := withTx (fresh .fcc) .payloadLast (some t) none
     ready s ∧ s.tx.step ≠ .idle ∧ s.tx.step ≠ .cancelled ∧ s.tx.ctl = some t ∧
       t.seq[t.pos]? = some (.pay 0 2) ∧ TxSym.pay 0 2 ≠ .fin ∧
       t.seq[t.pos + 1]? = some (.pay 1 1)) :=
  ⟨by decide, (fun _ h => by cases h), by decide⟩

theorem witness_SymbolStates : 2 ≤ 2 ∧ 1 < 2 ∧ 2 < 3 := by decide

theorem witness_TxFrameEnds :
    (let t := frame [.fin] 0
     let s := withTx (fresh .fcc) .endSymbol (some t) none
     ready s ∧ s.tx.step ≠ .idle ∧ s.tx.step ≠ .cancelled ∧ s.tx.ctl = some t ∧
       t.seq[t.pos]? = some .fin) ∧
    (let s := withTx (fresh .fcc) .cancelled none (some (failedPending .busyRx 0#32))
     ready s ∧ s.tx.step = .cancelled) := by decide

theorem witness_CsPeak :
    (let s := withTx (fresh .fcc) .preambleFirst (some (frame [.pre 1] 0)) none
     ready s ∧
       s.tx.step ∈ [TxStep.preambleFirst, .preambleLast, .headerFirst, .header, .cohSync] ∧
       s.rx.step = .idle) ∧
    (let s := withTx (fresh .fcc) .endSymbol (some (frame [.fin] 0)) none
     ready s ∧ s.tx.step ∈ [TxStep.payloadFirst, .payload, .payloadLast, .endSymbol]) ∧
    (let s := withNoise (fresh .fcc) .firstPass 0#8
     ready s ∧ s.tx.step ∈ [TxStep.idle, .cancelled] ∧ s.rx.step = .idle) ∧
    (let s := withRx (fresh .fcc) .peak1 (some (.fresh 0#32))
     ready s ∧ s.tx.step ∈ [TxStep.idle, .cancelled] ∧ s.rx.step ≠ .idle) := by decide

/-- An immediate ACK frame of a fresh block is accepted. -/
theorem witness_FrameRunsToConfirmation :
    (fresh .cenelecA).irqPending = 0#9 ∧ ∃ t, exec (.transmit .robo .differential .ack 0#4 false true 0#9) (fresh .cenelecA) = .next t ∧
      t.win.result = 1#32 := ⟨rfl, _, rfl, by decide⟩

theorem witness_RxAdvances :
    (∀ step ∈ [RxStep.peak1, .peak2, .cohS1, .cohS2],
      ready (withRx (fresh .fcc) step (some (reception 1 5 2))) ∧
      (withRx (fresh .fcc) step (some (reception 1 5 2))).rx.ctl = some (reception 1 5 2) ∧
      (withRx (fresh .fcc) step (some (reception 1 5 2))).rx.step = step) ∧
    RxStep.peak1.receiving = true ∧ RxStep.payloadDemod.receiving = true := by decide

theorem witness_RxRaces :
    ready (withRx (fresh .fcc) .peak2 (some (reception 1 5 2))) ∧
      ready (withRx (fresh .fcc) .peak1 (some (reception 1 5 2))) ∧
      ready (withRx (fresh .fcc) .waitReedSolomon (some (reception 1 0 0))) ∧
      (withRx (fresh .fcc) .peak2 (some (reception 1 5 2))).rx.step ∈
        [RxStep.peak2, .headerDemod, .cohS1, .cohS2, .payloadFirst, .payloadDemod] ∧
      (withRx (fresh .fcc) .peak1 (some (reception 1 5 2))).rx.ctl ≠ none ∧
      (withRx (fresh .fcc) .waitReedSolomon (some (reception 1 0 0))).rx.step ∈
        [RxStep.idle, .waitReedSolomon, .aborted] := by decide

/-- A header being received, with these bytes in RXCAP. -/
def header (bytes : List Byte) : State :=
  { withRx (fresh .cenelecA) .headerDemod (some (.fresh 0#32)) with
    mem := Memory.writeBytes [] 0x300 bytes }

/-- The header bytes of R330 and its variants, and a coherent one (R286 (c)): failure, ACK,
differential and coherent data. -/
theorem witness_RxHeader :
    (let decoded := fun bs =>
       decodeFch Config.tv .cenelecA ((header bs).mem.readBytes 0x300 5) 0#128
     decoded [0x00#8, 0x40#8, 0xBF#8, 0x82#8, 0x81#8] = none ∧
     decoded [0x11#8, 0x22#8, 0x33#8, 0x43#8, 0x80#8] =
       some (.control .ack 0x11#8 .robo .differential) ∧
     decoded [0x00#8, 0x40#8, 0xBF#8, 0x82#8, 0x80#8] =
       some (.data .dataNoResp 0#8 .bpsk .differential 0x3F#24 5 5 [7] 36) ∧
     decoded [0x00#8, 0x40#8, 0xBF#8, 0x90#8, 0x00#8] =
       some (.data .dataNoResp 0#8 .bpsk .coherent 0x3F#24 5 5 [7] 36)) ∧
    ready (header []) ∧ (header []).rx.step = .headerDemod ∧ (header []).rx.ctl = some (.fresh 0#32) := by
  decide +kernel

/-- A record with 512 bytes of block 0 received takes another chunk: R50's buffer stays at 512 bytes
and R317's bytes are all there (R317, R457). -/
theorem test_chunk_past_512 :
    (let r := ((reception 1 5 2).setBlockBytes 0 (List.replicate 511 7#8)).appendBlock 0 [8#8, 9#8]
     (r.buf.getD 0 []).length = 512 ∧ r.bufRest = [[9#8], []] ∧
       r.blockBytes 0 = List.replicate 511 7#8 ++ [8#8, 9#8]) := by decide +kernel

theorem witness_RxPayloadChunk :
    (∀ r ∈ [reception 1 5 2, reception 2 3 3, reception 1 3 3],
      ready (withRx (fresh .fcc) .payloadFirst (some r)) ∧
        (withRx (fresh .fcc) .payloadFirst (some r)).rx.step = .payloadFirst ∧
        (withRx (fresh .fcc) .payloadFirst (some r)).rx.ctl = some r) ∧
      (reception 1 5 2).rem - (reception 1 5 2).chunk ≠ 0 ∧
      ((reception 2 3 3).rem - (reception 2 3 3).chunk = 0 ∧ (reception 2 3 3).blk = 0 ∧
        (reception 2 3 3).nblk = 2) ∧
      (reception 1 5 2).blk < (reception 1 5 2).buf.length ∧
      (reception 1 5 2).blk < (reception 1 5 2).bufRest.length ∧
      ((reception 1 3 3).rem - (reception 1 3 3).chunk = 0 ∧
        ¬((reception 1 3 3).blk = 0 ∧ (reception 1 3 3).nblk = 2)) := by decide

/-- The ends of R322's ranges for RX_BLOCK = 3 and 4. -/
theorem witness_ChunkSchedule : chunkOf 3 3 = 3 ∧ chunkOf 3 4 = 1 ∧ chunkOf 3 5 = 2 ∧
    chunkOf 3 6 = 3 ∧ chunkOf 4 5 = 2 ∧ chunkOf 4 7 = 4 := by decide

theorem witness_RxReedSolomon :
    (let s := withRx (fresh .fcc) .waitReedSolomon (some (reception 2 0 0))
     ready s ∧ s.tx.pend = none ∧ s.rx.step = .waitReedSolomon ∧
       s.rx.ctl = some (reception 2 0 0) ∧ (reception 2 0 0).ack = false ∧
       s.tx.step.busy = false) ∧
    (let s := withRx (fresh .fcc) .waitReedSolomon (some (reception 1 0 0))
     ready s ∧ s.tx.pend = none ∧ s.rx.step = .waitReedSolomon ∧
       s.rx.ctl = some (reception 1 0 0) ∧ (reception 1 0 0).ack = false) ∧
    tvFail.rsDecode 0 [7#8] = none ∧
    (Config.tv.rsDecode 0 [7#8] = some ([7#8], 0) ∧
      (reception 2 0 0).blen.getD 0 0 ≤ [7#8].length) ∧
    (reception 2 0 0).rsNext + 1 ≠ (reception 2 0 0).nblk ∧
    (reception 1 0 0).rsNext + 1 = (reception 1 0 0).nblk := by decide

theorem witness_RxCompletes :
    (let s := withRx (fresh .fcc) .aborted (some (reception 1 0 0))
     ready s ∧ s.tx.pend = none ∧ s.rx.step = .aborted) ∧
    (let r := { RxControl.fresh 0#32 with ack := true }
     let s := withRx (fresh .fcc) .waitReedSolomon (some r)
     ready s ∧ s.tx.pend = none ∧ s.rx.step = .waitReedSolomon ∧ s.rx.ctl = some r ∧
       r.ack = true) := by decide

theorem witness_ProcessDelivers :
    (let s := withTx (fresh .fcc) .cancelled none (some (failedPending .busyRx 3#32))
     ready s ∧ s.tx.pend = some (failedPending .busyRx 3#32)) := by decide

theorem witness_ProcessResult :
    (let s := withTx (atTime (fresh .fcc) 999#32) .header (some (frame [.hdr 1] 0)) none
     ready s ∧ s.tx.pend = none ∧ s.rx.step ≠ .waitReedSolomon ∧ s.rx.step ≠ .aborted ∧
       ¬(s.noise.step = .idle ∧ s.tx.step = .idle ∧ s.rx.step = .idle ∧
         0 ≤ (s.glob.timeMs - s.glob.noiseDueMs).toInt) ∧
       (∀ t ∈ s.tx.ctl, (s.glob.timeMs - t.start).toInt < 1000) ∧
       s.rx.step.receiving = false) ∧
    (ready (fresh .fcc) ∧ ∃ t, exec .process (fresh .fcc) = .next t) :=
  ⟨by decide, by decide, ⟨_, rfl⟩⟩

theorem witness_CaptureStarts :
    (let s := atTime (fresh .fcc) 60000#32
     ready s ∧ s.tx.pend = none ∧ s.tx.step = .idle ∧ s.rx.step = .idle ∧
       s.noise.step = .idle ∧ 0 ≤ (s.glob.timeMs - s.glob.noiseDueMs).toInt) ∧
    (let s := withNoise (fresh .fcc) .adaptGain 0#8
     ready s ∧ s.noise.step = .adaptGain) ∧
    (let s := withNoise (fresh .fcc) .secondPass 0#8
     ready s ∧ s.noise.step ≠ .adaptGain) := by decide

theorem witness_WatchdogsFire :
    (let s := withTx (atTime (fresh .fcc) 1000#32) .header (some (frame [.hdr 1] 0)) none
     ready s ∧ s.tx.pend = none ∧ s.tx.step.busy = true ∧ s.tx.ctl = some (frame [.hdr 1] 0) ∧
       s.rx.step = .idle ∧ 1000 ≤ (s.glob.timeMs - (frame [.hdr 1] 0).start).toInt) ∧
    (let s := withRx (atTime (fresh .fcc) 1000#32) .peak1 (some (.fresh 0#32))
     ready s ∧ s.tx.pend = none ∧ s.rx.step.receiving = true ∧ s.rx.ctl = some (.fresh 0#32) ∧
       s.tx.step.busy = false ∧
       1000 ≤ (s.glob.timeMs - (RxControl.fresh 0#32).start).toInt) := by decide

/-- The rows of R248 under TV: a change of state, and the gain one step up, one down, unchanged. -/
theorem witness_GainHysteresis : Config.tv.Valid ∧ Config.tv.gmin .high ≤ 128 ∧
    128 ≤ Config.tv.gmax .high ∧
    (gainControl Config.tv .fcc .high 15 900 128 true).1 ≠ .high ∧
    gainControl Config.tv .fcc .high 15 1000 128 true = (.high, 129) ∧
    gainControl Config.tv .fcc .high 15 1300 128 true = (.high, 127) ∧
    gainControl Config.tv .fcc .high 15 1200 128 true = (.high, 128) :=
  ⟨Config.tv_valid, by decide⟩

theorem witness_CaptureDone :
    (∀ k ∈ [0#8, 1#8], ∀ step ∈ [NoiseStep.firstPass, .intermediatePass, .secondPass],
      ready (withNoise (fresh .fcc) step k)) ∧
    (withNoise (fresh .fcc) .firstPass 0#8).noise.step = .firstPass ∧ 1 ≤ Config.tv.nint .fcc ∧
      Config.tv.nint .cenelecA = 0 ∧
      (withNoise (fresh .fcc) .intermediatePass 0#8).noise.k.toNat < Config.tv.nint .fcc ∧
      Config.tv.nint .fcc ≤ (withNoise (fresh .fcc) .intermediatePass 1#8).noise.k.toNat ∧
      (withNoise (fresh .fcc) .secondPass 0#8).noise.step = .secondPass := by decide

theorem witness_CaptureRunsToFinish :
    (let s := withNoise (fresh .fcc) .adaptGain 0#8
     s.glob.initialised = true ∧ s.irqPending = 0#9 ∧ s.noise.step = .adaptGain) := by decide

theorem witness_DecibelTable : Config.defaultDbLut.length = 97 ∧
    Config.defaultDbLut.Pairwise (· ≤ ·) ∧ 0 < Config.defaultDbLut.getD 0 0 ∧
    Config.defaultDbLut.getD 0 0 ≤ 1 ∧ Config.defaultDbLut.getD 96 0 ≤ 2 ^ 32 - 1 :=
  ⟨Config.defaultDbLut_length, Config.defaultDbLut_sorted, by decide⟩

/-- A candidate exists, and none on a flat spectrum (R231). -/
theorem witness_NotchSelection :
    selectNotch Config.tv .cenelecA 0#128 (fun i => if i = 10 then 50 else 30) ≠ none ∧
      selectNotch Config.tv .cenelecA 0#128 (fun _ => 30) = none := by decide

theorem witness_FlatSpectrumNotNotched : Config.tv.Valid ∧
    ∀ i, i < Config.total .cenelecA → (fun _ : Nat => 30) i = 30 :=
  ⟨Config.tv_valid, fun _ _ => rfl⟩

end Sys2Proof.Tests
end

