-- ==== Sys2Proof/Proofs/ReedSolomon.lean ====
section
/-! PROOF. One Reed-Solomon block at PROCESS (R323-R325): what a stage of PROCESS with no work
leaves alone, what PROCESS is once stage 2 has run, and the outcomes of decoding one block. -/

namespace Sys2Proof.Machine

/-! ## Stages of PROCESS with no work -/

/-- Stage 1 with an empty slot (R368). -/
theorem deliverConfirm_of_pend_none {s : State} (c : Cfg) (h : s.tx.pend = none) :
    s.deliverConfirm c = s := by
  simp only [State.deliverConfirm, h]

/-- Stage 2 with an idle receiver (R367). -/
theorem rxDeferred_of_idle {s : State} (c : Cfg) (h : s.rx.step = .idle) : s.rxDeferred c = s := by
  simp only [State.rxDeferred, h]

@[simp] theorem rxDeferred_glob (c : Cfg) (s : State) : (s.rxDeferred c).glob = s.glob := by
  obtain ⟨rx, stats, lqi, host, e⟩ := rxDeferred_change c s
  rw [e]

@[simp] theorem rxDeferred_tx (c : Cfg) (s : State) : (s.rxDeferred c).tx = s.tx := by
  obtain ⟨rx, stats, lqi, host, e⟩ := rxDeferred_change c s
  rw [e]

/-- No capture starts while the receiver is in use (R211). -/
theorem noiseTrigger_of_rx_ne_idle {s : State} (h : s.rx.step ≠ .idle) : s.noiseTrigger = s :=
  if_neg fun ⟨_, _, idle, _⟩ => h idle

theorem txWatchdogDue_of_not_busy {s : State} (h : s.tx.step.busy = false) :
    s.txWatchdogDue = false := by
  simp [State.txWatchdogDue, h]

theorem rxWatchdogDue_of_not_receiving {s : State} (h : s.rx.step.receiving = false) :
    s.rxWatchdogDue = false := by
  simp [State.rxWatchdogDue, h]

/-- With no frame on the air and none being received no watchdog fires (R280, R327). -/
theorem watchdogs_of_not_busy_not_receiving {s : State} (c : Cfg) (htx : s.tx.step.busy = false)
    (hrx : s.rx.step.receiving = false) : s.watchdogs c = s := by
  simp [State.watchdogs, txWatchdogDue_of_not_busy htx, rxWatchdogDue_of_not_receiving hrx]

/-! ## PROCESS after stage 2 -/

theorem processWord_of_initialised {s : State} (c : Cfg) (h : s.glob.initialised = true) :
    s.processWord c = (s.processStages c).setResult (s.processStages c).processResult := by
  simp [State.processWord, h]

/-- With no confirmation waiting, stage 2 is the first that does anything. -/
theorem processStages_of_pend_none {s : State} (c : Cfg) (h : s.tx.pend = none) :
    s.processStages c = ((s.rxDeferred c).noiseTrigger).watchdogs c := by
  rw [State.processStages, deliverConfirm_of_pend_none c h]

/-- Where stage 2 leaves the receiver idle, the other stages run as in a PROCESS on the state that
stage 2 leaves: stages 1 and 2 of that PROCESS have no work. -/
theorem processWord_eq_of_rxDeferred_idle {s : State} (c : Cfg) (hinit : s.glob.initialised = true)
    (hpend : s.tx.pend = none) (hidle : (s.rxDeferred c).rx.step = .idle) :
    s.processWord c = (s.rxDeferred c).processWord c := by
  have stages : (s.rxDeferred c).processStages c = s.processStages c := by
    rw [processStages_of_pend_none c hpend, processStages_of_pend_none c (by simpa using hpend),
      rxDeferred_of_idle c hidle]
  rw [processWord_of_initialised c hinit, processWord_of_initialised c (by simpa using hinit),
    stages]

/-- Where stage 2 leaves the receiver waiting for another block, stages 3 and 4 have no work and
RESULT is PROCESS (R369). -/
theorem processWord_of_rxDeferred_waiting {s : State} (c : Cfg) (hinit : s.glob.initialised = true)
    (hpend : s.tx.pend = none) (hbusy : s.tx.step.busy = false)
    (hwait : (s.rxDeferred c).rx.step = .waitReedSolomon) :
    s.processWord c = (s.rxDeferred c).setResult .process := by
  have stages : s.processStages c = s.rxDeferred c := by
    rw [processStages_of_pend_none c hpend,
      noiseTrigger_of_rx_ne_idle (by rw [hwait]; decide),
      watchdogs_of_not_busy_not_receiving c (by simpa using hbusy) (by rw [hwait]; rfl)]
  rw [processWord_of_initialised c hinit, stages, State.processResult, if_pos hwait]

/-! ## One Reed-Solomon block -/

/-- Stage 2 on a data frame that waits is the decoding of one block (R323). -/
theorem rxDeferred_of_waiting_data {s : State} {r : RxControl} (c : Cfg)
    (hstep : s.rx.step = .waitReedSolomon) (hctl : s.rx.ctl = some r) (hack : r.ack = false) :
    s.rxDeferred c = s.rsDecodeBlock c r := by
  simp [State.rxDeferred, State.rxWait, hstep, hctl, hack]

/-- R324: the decoder fails, or answers fewer bytes than the block has. -/
theorem rsDecodeBlock_of_failed {c : Cfg} {r : RxControl} (s : State)
    (h : c.rsDecode r.rsNext (r.blockBytes r.rsNext) = none ∨
      ∃ out n, c.rsDecode r.rsNext (r.blockBytes r.rsNext) = some (out, n) ∧
        out.length < r.blen.getD r.rsNext 0) :
    s.rsDecodeBlock c r = s.rsFailure := by
  obtain hnone | ⟨out, n, hsome, hshort⟩ := h
  · simp only [State.rsDecodeBlock, hnone]
  · simp only [State.rsDecodeBlock, hsome, if_pos hshort]

/-- R323: the decoder recovers the block. -/
theorem rsDecodeBlock_of_corrected {c : Cfg} {r : RxControl} {out : List Byte} {n : Nat} (s : State)
    (h : c.rsDecode r.rsNext (r.blockBytes r.rsNext) = some (out, n))
    (hlen : r.blen.getD r.rsNext 0 ≤ out.length) :
    s.rsDecodeBlock c r = s.rsBlockDone r out n := by
  simp only [State.rsDecodeBlock, h, if_neg (Nat.not_lt.mpr hlen)]

/-- The record once its next block is corrected to `out` with `n` errors (R323). -/
def RxControl.takeCorrected (r : RxControl) (out : List Byte) (n : Nat) : RxControl :=
  { r with
    out := r.out ++ out.take (r.blen.getD r.rsNext 0)
    corr := r.corr + BitVec.ofNat 32 n
    rsNext := r.rsNext + 1 }

theorem rsBlockDone_of_last {r : RxControl} (out : List Byte) (n : Nat) (s : State)
    (h : r.rsNext + 1 = r.nblk) :
    s.rsBlockDone r out n = s.deliverInd (dataIndication (r.takeCorrected out n)) :=
  if_pos h

theorem rsBlockDone_of_more {r : RxControl} (out : List Byte) (n : Nat) (s : State)
    (h : r.rsNext + 1 ≠ r.nblk) :
    s.rsBlockDone r out n = s.rxEnter .waitReedSolomon (r.takeCorrected out n) :=
  if_neg h

/-- Settles O49: stage 2 decodes the block; a failure and the last block leave the receiver idle, a
block with more to come leaves it waiting. -/
theorem rxReedSolomon : Obligations.RxReedSolomon := by
  unfold Obligations.RxReedSolomon
  refine ⟨exec_process, fun c s r hinit hpend hstep hctl hack => ?_⟩
  have stage := rxDeferred_of_waiting_data c hstep hctl hack
  refine ⟨fun hfail => ?failed,
    fun out n hsome hlen => ⟨fun hmore hbusy => ?more, fun hlast => ?last⟩⟩
  case failed =>
    rw [rsDecodeBlock_of_failed s hfail] at stage
    rw [processWord_eq_of_rxDeferred_idle c hinit hpend (by rw [stage]; rfl), stage]
    rfl
  case more =>
    rw [rsDecodeBlock_of_corrected s hsome hlen, rsBlockDone_of_more out n s hmore] at stage
    rw [processWord_of_rxDeferred_waiting c hinit hpend hbusy (by rw [stage]; rfl), stage]
    rfl
  case last =>
    rw [rsDecodeBlock_of_corrected s hsome hlen, rsBlockDone_of_last out n s hlast] at stage
    rw [processWord_eq_of_rxDeferred_idle c hinit hpend (by rw [stage]; rfl), stage]
    rfl

end Sys2Proof.Machine
end

section
/-! PROOF. What a word and an event can do: the dispatch loop as a sequence of handlers, each word
by cases, and what is kept by every word is kept by every step. -/

namespace Sys2Proof.Machine

/-! ## An EV_IRQ word as a sequence of handlers -/

/-- The handlers of the listed sources in the list's order, each run when its bit is set in `p`. -/
def State.serve (c : Cfg) (txok rxok : Bool) (p : BitVec 9) : List IrqSource → State → State
  | [], s => s
  | q :: qs, s =>
    State.serve c txok rxok p qs (if p.getLsbD q.bit then s.handle c txok rxok q else s)

/-- The sources other than LINK_ERROR, in handling order (R408). -/
def eventSources : List IrqSource :=
  [.csPeak, .txSymbol, .rxSync, .rxNoPeak2, .rxBuf, .rxAbort, .agcDone, .captureDone]

theorem serve_congr {c : Cfg} {txok rxok : Bool} {p p' : BitVec 9} {qs : List IrqSource}
    (h : ∀ q ∈ qs, p.getLsbD q.bit = p'.getLsbD q.bit) (s : State) :
    s.serve c txok rxok p qs = s.serve c txok rxok p' qs := by
  induction qs generalizing s with
  | nil => rfl
  | cons q qs ih =>
    obtain ⟨hq, hqs⟩ := List.forall_mem_cons.mp h
    rw [State.serve, State.serve, hq, ih hqs]

/-- What every handler but LINK_ERROR's keeps, a sequence of them keeps. -/
theorem serve_keeps {c : Cfg} {txok rxok : Bool} {P : State → Prop}
    (keeps : ∀ q s, q ≠ .linkError → P s → P (s.handle c txok rxok q)) (p : BitVec 9)
    {qs : List IrqSource} (hqs : IrqSource.linkError ∉ qs) {s : State} (hs : P s) :
    P (s.serve c txok rxok p qs) := by
  induction qs generalizing s with
  | nil => exact hs
  | cons q qs ih =>
    obtain ⟨hq, hqs⟩ := not_or.mp (mt List.mem_cons.mpr hqs)
    refine ih hqs ?_
    split
    · exact keeps q s (Ne.symm hq) hs
    · exact hs

theorem lowestPending_eq_some {p : BitVec 9} {q : IrqSource} (hq : p.getLsbD q.bit = true)
    (least : ∀ r : IrqSource, p.getLsbD r.bit = true → q.bit ≤ r.bit) :
    lowestPending p = some q := by
  cases hl : lowestPending p with
  | none =>
    rw [lowestPending_none.mp hl] at hq
    simp at hq
  | some r =>
    obtain ⟨hr, below⟩ := lowestPending_some hl
    have hle : r.bit ≤ q.bit := Nat.not_lt.mp fun hlt => by simp [below q hlt] at hq
    rw [IrqSource.bit_injective (Nat.le_antisymm hle (least r hr))]

/-- Clearing a source's bit leaves the bits of the others. -/
theorem getLsbD_clear_bit {p : BitVec 9} {q r : IrqSource} :
    (p &&& ~~~(BitVec.twoPow 9 q.bit)).getLsbD r.bit = (p.getLsbD r.bit && decide (r ≠ q)) := by
  have hr := r.bit_lt
  have heq : q.bit = r.bit ↔ q = r := ⟨fun h => IrqSource.bit_injective h, congrArg _⟩
  simp [hr, heq, eq_comm]

/-- The dispatch loop runs the pending handlers in ascending order, each once, when LINK_ERROR is
not among them (R407, R408). -/
theorem irqLoop_eq_serve (c : Cfg) (txok rxok : Bool) {qs : List IrqSource}
    (sorted : qs.Pairwise (·.bit < ·.bit)) (hlink : IrqSource.linkError ∉ qs) {p : BitVec 9}
    (hp : ∀ q : IrqSource, p.getLsbD q.bit = true → q ∈ qs) {fuel : Nat} (hf : qs.length ≤ fuel)
    (s : State) :
    irqLoop (State.handle c txok rxok) fuel { s with irqPending := p } =
      { s.serve c txok rxok p qs with irqPending := 0#9 } := by
  induction qs generalizing p fuel s with
  | nil =>
    have hzero : p = 0#9 := BitVec.eq_of_getLsbD_eq fun i hi => by
      obtain ⟨q, rfl⟩ := IrqSource.exists_bit hi
      simpa using hp q
    subst hzero
    exact irqLoop_of_idle _ _ rfl
  | cons q qs ih =>
    obtain ⟨first, sorted⟩ := List.pairwise_cons.mp sorted
    obtain ⟨hq, hlink⟩ := not_or.mp (mt List.mem_cons.mpr hlink)
    obtain ⟨n, rfl⟩ : ∃ n, fuel = n + 1 := ⟨fuel - 1, by simp at hf; omega⟩
    have hn : qs.length ≤ n := by simpa using hf
    by_cases hpend : p.getLsbD q.bit = true
    · have lowest : lowestPending p = some q := lowestPending_eq_some hpend fun r hr => by
        obtain rfl | hr := List.mem_cons.mp (hp r hr)
        · exact le_rfl
        · exact (first r hr).le
      have rest : ∀ r : IrqSource,
          (p &&& ~~~(BitVec.twoPow 9 q.bit)).getLsbD r.bit = true → r ∈ qs := fun r hr => by
        rw [getLsbD_clear_bit, Bool.and_eq_true, decide_eq_true_iff] at hr
        exact (List.mem_cons.mp (hp r hr.1)).resolve_left hr.2
      have enter : State.enterHandler { s with irqPending := p } q =
          { s with irqPending := p &&& ~~~(BitVec.twoPow 9 q.bit) } := rfl
      have same : ∀ r ∈ qs, (p &&& ~~~(BitVec.twoPow 9 q.bit)).getLsbD r.bit = p.getLsbD r.bit := by
        intro r hr
        have hne : r ≠ q := fun e => (first r hr).ne (congrArg _ e.symm)
        rw [getLsbD_clear_bit, decide_eq_true hne, Bool.and_true]
      rw [irqLoop, lowest]
      simp only [enter]
      rw [ignoresPending_handle c txok rxok (Ne.symm hq), ih sorted hlink rest hn,
        serve_congr same, State.serve, if_pos hpend]
    · have rest : ∀ r : IrqSource, p.getLsbD r.bit = true → r ∈ qs := fun r hr => by
        refine (List.mem_cons.mp (hp r hr)).resolve_left ?_
        rintro rfl
        exact hpend hr
      rw [ih sorted hlink rest (by omega), State.serve, if_neg hpend]

theorem irqWord_of_uninitialised (c : Cfg) (src : BitVec 9) (txok rxok : Bool) {s : State}
    (h : s.glob.initialised = false) :
    s.irqWord c src txok rxok = { s.setResult .success with irqPending := 0#9 } :=
  if_pos h

/-- LINK_ERROR is handled first and drops the other sources (R408, R412). -/
theorem irqWord_of_linkError (c : Cfg) {src : BitVec 9} (txok rxok : Bool) {s : State}
    (h : s.glob.initialised = true) (hlink : (s.irqPending ||| src).getLsbD 0 = true) :
    s.irqWord c src txok rxok = (s.setResult .success).reinit c true := by
  have lowest : lowestPending (s.irqPending ||| src) = some .linkError :=
    lowestPending_eq_some hlink fun _ _ => Nat.zero_le _
  rw [State.irqWord, if_neg (by simp [h]), State.dispatchIrq, irqLoop]
  simp only [State.setResult_irqPending, lowest]
  exact irqLoop_of_idle _ _ rfl

/-- Without LINK_ERROR the word runs the handlers of its sources in order (R407, R408). -/
theorem irqWord_of_events (c : Cfg) {src : BitVec 9} (txok rxok : Bool) {s : State}
    (h : s.glob.initialised = true) (hlink : (s.irqPending ||| src).getLsbD 0 = false) :
    s.irqWord c src txok rxok =
      { (s.setResult .success).serve c txok rxok (s.irqPending ||| src) eventSources with
        irqPending := 0#9 } := by
  have listed : ∀ q : IrqSource,
      (s.irqPending ||| src).getLsbD q.bit = true → q ∈ eventSources := by
    intro q hq
    cases q with
    | linkError => exact Bool.noConfusion (hlink.symm.trans hq)
    | _ => decide
  rw [State.irqWord, if_neg (by simp [h])]
  exact irqLoop_eq_serve c txok rxok (by decide) (by decide) listed (by decide) _

theorem eventChange_refl (s : State) : EventChange s s := (TxChange.refl s).event

/-- What a sequence of handlers other than LINK_ERROR's can change. -/
theorem serve_change (c : Cfg) (txok rxok : Bool) (p : BitVec 9) (s : State) :
    EventChange s (s.serve c txok rxok p eventSources) :=
  serve_keeps (P := EventChange s)
    (fun _ t hq ht => ht.trans (handle_change c txok rxok hq t)) p (by decide)
    (eventChange_refl s)

/-! ## SET_PARAM -/

/-- The id of a parameter (Table 30-3). -/
def Param.id : Param → Nat
  | .staticNotch k => k.val
  | .legacyMode => 0x10
  | .impedance => 0x11
  | .forceNoOutput => 0x12
  | .noiseInterval => 0x13
  | .lastRms => 0x14
  | .stat i => 0x20 + i.index.val
  | .statsClear => 0x2F
  | .lastLqi => 0x30
  | .tmResponse => 0x31
  | .notch => 0x32
  | .band => 0x33
  | .txState => 0x34
  | .rxState => 0x35
  | .noiseState => 0x36
  | .timeMs => 0x37
  | .noisePower c => 0x100 + c.val
  | .noiseDb c => 0x180 + c.val

theorem carrierParam_id {b : Band} {n : Nat} {p : Param} (h : carrierParam b n = some p) :
    n = p.id := by
  have ht := total_le b
  unfold carrierParam at h
  split at h
  · cases h
    simp only [Param.id, Fin.ofNat]
    omega
  · split at h
    · cases h
      simp only [Param.id, Fin.ofNat]
      omega
    · cases h

/-- An id names the parameter with that id only. -/
theorem paramOf_id {b : Band} {id : BitVec 16} {p : Param} (h : paramOf b id = some p) :
    id = BitVec.ofNat 16 p.id := by
  have hid : id.toNat = p.id := by
    unfold paramOf at h
    split at h
    all_goals first
      | exact carrierParam_id h
      | (cases h; assumption)
  rw [← hid, BitVec.ofNat_toNat, BitVec.setWidth_eq]

/-- What SET_PARAM of an id can do: refuse, or write the one setting the id names (R359-R366). -/
inductive SettingWrite (s : State) : BitVec 16 → State → Prop
  | refused (id : BitVec 16) (r : ResultCode) : SettingWrite s id (s.setResult r)
  | staticNotch (k : Fin 4) (m : Mask)
      (inBand : s.glob.initialised = true → m &&& fullMask s.glob.band = m) :
      SettingWrite s (BitVec.ofNat 16 k.val)
        ({ s with glob := { s.glob with staticNotch := m } }.setResult .success)
  | legacyMode (v : Bool) :
      SettingWrite s 0x0010#16
        ({ s with glob := { s.glob with legacyMode := v } }.setResult .success)
  | impedance (coupling : ImpState) (auto : Bool) (gain : BitVec 8) (idle : s.txIdle = true) :
      SettingWrite s 0x0011#16
        ({ s with imp := { s.imp with
            coupling := coupling
            autoDetect := auto
            gain := gain } }.setResult .success)
  | forceNoOutput (v : Bool) :
      SettingWrite s 0x0012#16
        ({ s with glob := { s.glob with forceNoOutput := v } }.setResult .success)
  | noiseInterval (v : Word) (nonzero : v ≠ 0#32) :
      SettingWrite s 0x0013#16
        ({ s with glob := { s.glob with
            noiseIntervalMs := v
            noiseDueMs := s.glob.timeMs + v } }.setResult .success)
  | statsClear :
      SettingWrite s 0x002F#16 ({ s with stats := Vector.replicate 11 0#32 }.setResult .success)

theorem setStaticNotch_write (k : Fin 4) (v : Word) (s : State) :
    SettingWrite s (BitVec.ofNat 16 k.val) (s.setStaticNotch k v) := by
  unfold State.setStaticNotch
  split
  · exact .refused ..
  · split
    · exact .refused ..
    · refine .staticNotch k _ fun hinit => ?_
      rw [if_pos hinit, BitVec.and_assoc, BitVec.and_self]

theorem setImpedance_write (c : Cfg) (v : Word) (s : State) :
    SettingWrite s 0x0011#16 (s.setImpedance c v) := by
  unfold State.setImpedance
  split
  · exact .refused ..
  · split
    · exact .refused ..
    · split
      · exact .refused ..
      · next hidle => exact .impedance _ _ _ (Bool.not_eq_false _ |>.mp hidle)

theorem setNoiseInterval_write (v : Word) (s : State) :
    SettingWrite s 0x0013#16 (s.setNoiseInterval v) := by
  unfold State.setNoiseInterval
  split
  · exact .refused ..
  · next hv => exact .noiseInterval v hv

theorem setParamWord_write (c : Cfg) (id : BitVec 16) (s : State) :
    SettingWrite s id (s.setParamWord c id) := by
  unfold State.setParamWord
  split
  · exact .refused ..
  · next p hp =>
    rw [paramOf_id hp]
    cases p with
    | staticNotch k => exact setStaticNotch_write k _ s
    | legacyMode => exact .legacyMode _
    | impedance => exact setImpedance_write c _ s
    | forceNoOutput => exact .forceNoOutput _
    | noiseInterval => exact setNoiseInterval_write _ s
    | statsClear => exact .statsClear
    | _ => exact .refused ..

/-! ## What each word does -/

/-- What a word can do, by word: `exec_effect`. -/
inductive WordEffect (c : Cfg) (s : State) : Instr → State → Prop
  /-- nothing but RESULT -/
  | result (i : Instr) (r : ResultCode) : WordEffect c s i (s.setResult r)
  /-- R351 -/
  | init (b : Band) : WordEffect c s (.init b) (s.initWord c b)
  /-- R353 -/
  | reject (q : TxRequest) (r : ResultCode) :
      WordEffect c s (.transmit q.mod q.sch q.dt q.pwr q.noadapt q.imm q.len) (s.rejectTx r)
  /-- R354 -/
  | accept (q : TxRequest) (init : s.glob.initialised = true) (rxIdle : s.rx.step = .idle)
      (txIdle : s.txIdle = true) :
      WordEffect c s (.transmit q.mod q.sch q.dt q.pwr q.noadapt q.imm q.len) (s.acceptFrame c q)
  /-- R357 -/
  | read (id : BitVec 16) (v : Word) :
      WordEffect c s (.getParam id)
        ({ s with win := { s.win with paramData := v } }.setResult .success)
  /-- R359 -/
  | setting {id : BitVec 16} {t : State} (write : SettingWrite s id t) :
      WordEffect c s (.setParam id) t
  /-- R367 -/
  | process (r : ResultCode) (init : s.glob.initialised = true) :
      WordEffect c s .process ((s.processStages c).setResult r)
  /-- R356 -/
  | cancel (init : s.glob.initialised = true) (pre : s.tx.step.prePayload = true) :
      WordEffect c s .cancel (s.cancelFrame.setResult .success)
  /-- R410 -/
  | drop (src : BitVec 9) (txok rxok : Bool) (init : s.glob.initialised = false) :
      WordEffect c s (.evIrq src txok rxok) { s.setResult .success with irqPending := 0#9 }
  /-- R412 -/
  | linkError (src : BitVec 9) (txok rxok : Bool) (init : s.glob.initialised = true)
      (link : (s.irqPending ||| src).getLsbD 0 = true) :
      WordEffect c s (.evIrq src txok rxok) ((s.setResult .success).reinit c true)
  /-- R407, R408 -/
  | events (src : BitVec 9) (txok rxok : Bool) (init : s.glob.initialised = true) :
      WordEffect c s (.evIrq src txok rxok)
        { (s.setResult .success).serve c txok rxok (s.irqPending ||| src) eventSources with
          irqPending := 0#9 }
  /-- R370 -/
  | tick (delta : BitVec 16) : WordEffect c s (.evTick delta) (s.tickWord delta)

theorem transmitWord_effect (c : Cfg) (q : TxRequest) (s : State) :
    WordEffect c s (.transmit q.mod q.sch q.dt q.pwr q.noadapt q.imm q.len)
      (s.transmitWord c q) := by
  unfold State.transmitWord
  split
  · exact .result ..
  · next hinit =>
    split
    · exact .reject ..
    · next hrx =>
      split
      · exact .result ..
      · next htx =>
        split
        · exact .reject ..
        · exact .accept q (Bool.not_eq_false _ |>.mp hinit) (not_not.mp hrx)
            (Bool.not_eq_false _ |>.mp htx)

theorem getParamWord_effect (c : Cfg) (id : BitVec 16) (s : State) :
    WordEffect c s (.getParam id) (s.getParamWord c id) := by
  unfold State.getParamWord
  split
  · exact .result ..
  · exact .read ..

theorem processWord_effect (c : Cfg) (s : State) :
    WordEffect c s .process (s.processWord c) := by
  unfold State.processWord
  split
  · exact .result ..
  · next hinit => exact .process _ (Bool.not_eq_false _ |>.mp hinit)

theorem cancelWord_effect (c : Cfg) (s : State) : WordEffect c s .cancel s.cancelWord := by
  unfold State.cancelWord
  split
  · exact .result ..
  · next hinit =>
    split
    · next hpre => exact .cancel (Bool.not_eq_false _ |>.mp hinit) hpre
    · split <;> exact .result ..

theorem irqWord_effect (c : Cfg) (src : BitVec 9) (txok rxok : Bool) (s : State) :
    WordEffect c s (.evIrq src txok rxok) (s.irqWord c src txok rxok) := by
  cases hinit : s.glob.initialised with
  | false =>
    rw [irqWord_of_uninitialised c src txok rxok hinit]
    exact .drop src txok rxok hinit
  | true =>
    cases hlink : (s.irqPending ||| src).getLsbD 0 with
    | true =>
      rw [irqWord_of_linkError c txok rxok hinit hlink]
      exact .linkError src txok rxok hinit hlink
    | false =>
      rw [irqWord_of_events c txok rxok hinit hlink]
      exact .events src txok rxok hinit

/-- What a word can do. The rules over all words are read off its cases. -/
theorem exec_effect {i : Instr} {s t : State} (h : exec i s = .next t) :
    WordEffect Config.cfg s i t := by
  cases i with
  | init b => cases h; exact .init b
  | transmit m sch d pwr noadapt imm len =>
    cases h
    exact transmitWord_effect Config.cfg ⟨m, sch, d, pwr, noadapt, imm, len⟩ s
  | getParam id => cases h; exact getParamWord_effect ..
  | setParam id => cases h; exact .setting (setParamWord_write ..)
  | process => cases h; exact processWord_effect ..
  | cancel => cases h; exact cancelWord_effect ..
  | evIrq src txok rxok => cases h; exact irqWord_effect ..
  | evTick delta => cases h; exact .tick delta

/-! ### Shapes of the larger effects -/

/-- An accepted frame is put on the air, any noise capture aborted (R354, R226). -/
theorem acceptFrame_eq (c : Cfg) (q : TxRequest) (s : State) :
    ∃ noise fe, s.acceptFrame c q =
      { s with
        win := { s.win with result := ResultCode.process.code }
        noise := noise
        feOut := s.feOut ++ fe
        tx := { s.tx with
          step := .preambleFirst
          ctl := some (s.frameControl c q) } } := by
  obtain ⟨noise, fe, e⟩ := abortCapture_change s
  refine ⟨noise, fe ++ [.txStart (s.txStartRecord q (s.frameControl c q)),
    .txCfg (.pre 1) (State.notchFor { s with noise := noise } (.pre 1))], ?_⟩
  unfold State.acceptFrame
  simp only [e, State.setResult, State.emitTxCfg, State.emitFe, List.append_assoc]
  rfl

/-- Stage 4 of PROCESS runs on a state in which the first three have changed the machines, the
counters, last_lqi, the due time, the logs, and ImpedanceState as stage 1 does (R367). -/
theorem processStages_eq (c : Cfg) (s : State) :
    ∃ tx rx noise stats lqi due host fe, s.processStages c =
      State.watchdogs c { s with
        glob := { s.glob with noiseDueMs := due }
        tx := tx
        rx := rx
        noise := noise
        imp := (s.deliverConfirm c).imp
        stats := stats
        lastLqi := lqi
        hostOut := s.hostOut ++ host
        feOut := s.feOut ++ fe } := by
  obtain ⟨imp, host, tx, e⟩ := deliverConfirm_change c s
  obtain ⟨rx, stats, lqi, host', e'⟩ := rxDeferred_change c (s.deliverConfirm c)
  obtain ⟨noise, due, fe, e''⟩ := noiseTrigger_change ((s.deliverConfirm c).rxDeferred c)
  refine ⟨(s.deliverConfirm c).tx, rx, noise, stats, lqi, due, host ++ host', fe, ?_⟩
  rw [State.processStages, e'', e', e, List.append_assoc]

/-! ## Steps -/

/-- A data write changes the window only (R88). -/
theorem storeData_frame (s : State) (a : Nat) (n : Width) (v : Word) :
    ∃ win mem, s.storeData a n v = { s with win := win, mem := mem } := by
  unfold State.storeData
  split <;> exact ⟨_, _, rfl⟩

/-- What reads neither the window nor the waiting accesses and is kept by every word is kept by
every step. -/
theorem step_keeps {P : State → Prop}
    (frame : ∀ (s : State) (win : Window) (mem : Memory) (inputs : List Access) (readData : Word),
      P s → P { s with win := win, mem := mem, inputs := inputs, readData := readData })
    (word : ∀ (i : Instr) (s t : State), P s → exec i s = .next t → P t) {s t : State} (hs : P s)
    (h : step s = .next t) : P t := by
  obtain ⟨-, rfl⟩ | ⟨rest, -, ⟨v, rfl⟩ | rfl | ⟨-, a, n, v, -, -, rfl⟩ | ⟨i, hexec⟩ | rfl⟩ :=
    step_cases h
  · exact hs
  · exact frame s s.win s.mem rest v hs
  · exact frame s s.win s.mem rest s.readData hs
  · obtain ⟨win, mem, e⟩ := storeData_frame { s with inputs := rest } a n v
    rw [e]
    exact frame s win mem rest s.readData hs
  · exact word i _ t (frame s s.win s.mem rest s.readData hs) hexec
  · exact frame s _ s.mem rest s.readData hs

end Sys2Proof.Machine
end

section
/-! PROOF. The rules over all words: what each event does, the output logs, and who writes the
window, the globals, ImpedanceState and the counters. -/

namespace Sys2Proof.Machine

/-! ## What each event does -/

/-- TX_SYMBOL is ignored, ends the frame, or moves it to the next symbol of its sequence (R265). -/
theorem txSymbol_cases (txok : Bool) (s : State) :
    s.txSymbol txok = s ∨
    ∃ t, s.tx.step.busy = true ∧ s.tx.ctl = some t ∧
      (s.txSymbol txok = s.completeFrame t ∨ s.txSymbol txok = s.chainFailure ∨
        ∃ nxt fe, t.seq[t.pos + 1]? = some nxt ∧
          s.txSymbol txok = State.enterSymbol t nxt { s with feOut := s.feOut ++ fe }) := by
  unfold State.txSymbol
  split
  case isFalse => exact .inl rfl
  next hbusy =>
  split
  case h_1 => exact .inl rfl
  next t hctl =>
  unfold State.consumeSymbol
  split
  case h_1 => exact .inl rfl
  case h_2 => exact .inr ⟨t, hbusy, hctl, .inl rfl⟩
  split
  case h_1 => exact .inl rfl
  next nxt hnxt =>
  refine .inr ⟨t, hbusy, hctl, ?_⟩
  unfold State.advanceFrame
  split
  · exact .inr (.inr ⟨nxt, [], hnxt, by rw [List.append_nil]⟩)
  · next k _ =>
    split
    · refine .inr (.inr ⟨nxt, ?_, hnxt, congrArg _ ?_⟩)
      · exact (if k = 1 then [.txChainReset] else []) ++ [.txBlock k (t.blks.getD k []) t.parity]
      · unfold State.loadBlock
        split <;> simp [State.emitFe]
    · exact .inr (.inl rfl)

/-- RX_SYNC is ignored, is the second peak in Peak1, or aborts the reception (R303, R304). -/
theorem rxSync_cases (s : State) :
    s.rxSync = s ∨
    (∃ r, s.rx.step = .peak1 ∧ s.rx.ctl = some r ∧
      s.rxSync = (s.rxEnter .peak2 { r with rxTime := s.glob.timeMs }).emitFe
        (.rxCapture (.preamble 1))) ∨
    (s.rx.step.receiving = true ∧ s.rxSync = s.rxAbortAction) := by
  cases hstep : s.rx.step with
  | idle | waitReedSolomon | aborted => simp [State.rxSync, hstep]
  | peak1 =>
    cases hctl : s.rx.ctl with
    | none => simp [State.rxSync, State.rxSyncPeak1, hstep, hctl]
    | some r => simp [State.rxSync, State.rxSyncPeak1, hstep, hctl]
  | _ => simp [State.rxSync, hstep, RxStep.receiving]

/-- RX_NOPEAK2 is ignored, ends a reception that has no second peak, or aborts (R305, R306). -/
theorem rxNoPeak2_cases (s : State) :
    s.rxNoPeak2 = s ∨
    (s.rx.step.receiving = true ∧
      (s.rxNoPeak2 = s.rxIdle.bump .rxNoPeak2 ∨ s.rxNoPeak2 = s.rxAbortAction)) := by
  cases hstep : s.rx.step <;> simp [State.rxNoPeak2, hstep, RxStep.receiving]

/-- RX_ABORT is ignored or aborts the reception (R320). -/
theorem rxAbort_cases (s : State) :
    s.rxAbort = s ∨ (s.rx.step.receiving = true ∧ s.rxAbort = s.rxAbortAction) := by
  unfold State.rxAbort
  split
  · next h => exact .inr ⟨h, rfl⟩
  · exact .inl rfl

/-- RX_BUF is ignored, is a chain error, or is for the state's own use of the buffer (R307). -/
theorem rxBuf_cases (c : Cfg) (rxok : Bool) (s : State) :
    s.rxBuf c rxok = s ∨
    (s.rx.step.receiving = true ∧
      (s.rxBuf c rxok = s.rxToAborted .chainErr ∨
        ∃ r, s.rx.ctl = some r ∧ s.rxBuf c rxok = s.rxBuffer c r)) := by
  unfold State.rxBuf
  split
  case isFalse => exact .inl rfl
  next hrecv =>
  split
  case isFalse => exact .inr ⟨hrecv, .inl rfl⟩
  split
  · exact .inl rfl
  · next r hctl => exact .inr ⟨hrecv, .inr ⟨r, hctl, rfl⟩⟩

/-- What matters of the record after a data header: the block number is as it was, and the buffers
are empty (R313). -/
structure RxControl.DataHeader (r r' : RxControl) : Prop where
  ack : r'.ack = false
  blk : r'.blk = r.blk
  buf : r'.buf = [[], []]
  bufRest : r'.bufRest = [[], []]

theorem rxDataHeader_cases (c : Cfg) (r : RxControl) (m : Modulation) (sch : Scheme)
    (tm : ToneMap) (fl flb : Nat) (blen : List Nat) (s : State) :
    ∃ r', r.DataHeader r' ∧
      (s.rxDataHeader c r m sch tm fl flb blen =
          (s.rxEnter .cohS1 r').emitFe (.rxCapture (.sync 1)) ∨
        s.rxDataHeader c r m sch tm fl flb blen = s.startBlock c r' 0) := by
  cases sch
  case differential =>
    refine ⟨_, ?_, .inr rfl⟩
    exact ⟨rfl, rfl, rfl, rfl⟩
  case coherent =>
    refine ⟨_, ?_, .inl rfl⟩
    exact ⟨rfl, rfl, rfl, rfl⟩

/-- What RX_BUF does with a header: the record is bad, is an ACK/NACK header, or is a data header,
after which the sync symbols or block 0 come (R310-R313). -/
theorem rxHeader_cases (c : Cfg) (r : RxControl) (s : State) :
    s.rxHeader c r = s.rxIdle.bump .rxBadCrc ∨
    (∃ r', s.rxHeader c r = s.rxEnter .waitReedSolomon r' ∧
      r'.blk = r.blk ∧ r'.buf = r.buf ∧ r'.bufRest = r.bufRest) ∨
    ∃ r', r.DataHeader r' ∧
      (s.rxHeader c r = (s.rxEnter .cohS1 r').emitFe (.rxCapture (.sync 1)) ∨
        s.rxHeader c r = s.startBlock c r' 0) := by
  unfold State.rxHeader
  simp only
  split
  · exact .inl rfl
  · exact .inr (.inl ⟨_, rfl, rfl, rfl, rfl⟩)
  · obtain ⟨r', ⟨hack, hblk, hbuf, hrest⟩, e⟩ := rxDataHeader_cases c
      { r with evmHdr := s.win.feEvmHdr } _ _ _ _ _ _ s
    exact .inr (.inr ⟨r', ⟨hack, hblk, hbuf, hrest⟩, e⟩)

/-- What stage 2 does: nothing, the end of an aborted reception, an indication, a decoding failure,
or one corrected block (R321, R323, R324, R326). -/
theorem rxDeferred_cases (c : Cfg) (s : State) :
    s.rxDeferred c = s ∨ s.rxDeferred c = s.rxIdle ∨ (∃ i, s.rxDeferred c = s.deliverInd i) ∨
    s.rxDeferred c = s.rsFailure ∨
    ∃ r out n, s.rx.step = .waitReedSolomon ∧ s.rx.ctl = some r ∧
      s.rxDeferred c = s.rxEnter .waitReedSolomon (r.takeCorrected out n) := by
  cases hstep : s.rx.step with
  | aborted => exact .inr (.inl (by simp [State.rxDeferred, hstep]))
  | waitReedSolomon =>
    cases hctl : s.rx.ctl with
    | none => simp [State.rxDeferred, State.rxWait, hstep, hctl]
    | some r =>
      cases hack : r.ack with
      | true =>
        refine .inr (.inr (.inl ⟨controlIndication s.glob.band r, ?_⟩))
        simp [State.rxDeferred, State.rxWait, hstep, hctl, hack]
      | false =>
        rw [rxDeferred_of_waiting_data c hstep hctl hack]
        unfold State.rsDecodeBlock
        split
        · exact .inr (.inr (.inr (.inl rfl)))
        · next out n _ =>
          split
          · exact .inr (.inr (.inr (.inl rfl)))
          · by_cases hlast : r.rsNext + 1 = r.nblk
            · exact .inr (.inr (.inl ⟨_, rsBlockDone_of_last out n s hlast⟩))
            · have more := rsBlockDone_of_more out n s hlast
              exact .inr (.inr (.inr (.inr ⟨r, out, n, rfl, rfl, more⟩)))
  | _ => exact .inl (by simp [State.rxDeferred, hstep])

/-! ## The output logs -/

/-- Records are only added to the output logs. -/
abbrev LogsGrow (s t : State) : Prop := s.hostOut <+: t.hostOut ∧ s.feOut <+: t.feOut

theorem LogsGrow.refl (s : State) : LogsGrow s s := ⟨List.prefix_rfl, List.prefix_rfl⟩

theorem LogsGrow.trans {s t u : State} : LogsGrow s t → LogsGrow t u → LogsGrow s u :=
  fun ⟨hh, hf⟩ ⟨hh', hf'⟩ => ⟨hh.trans hh', hf.trans hf'⟩

theorem LogsGrow.of_append {s t : State} (host : List HostRecord) (fe : List FeRecord)
    (hh : t.hostOut = s.hostOut ++ host) (hf : t.feOut = s.feOut ++ fe) : LogsGrow s t :=
  ⟨hh ▸ List.prefix_append .., hf ▸ List.prefix_append ..⟩

theorem EventChange.logsGrow {s t : State} : EventChange s t → LogsGrow s t := by
  rintro ⟨tx, rx, noise, stats, fe, rfl⟩
  exact .of_append [] fe (by simp) rfl

theorem watchdogs_logsGrow (c : Cfg) (s : State) : LogsGrow s (s.watchdogs c) := by
  obtain e | ⟨stats, host, e⟩ := watchdogs_cases c s <;> rw [e]
  · exact .refl s
  · exact .of_append host [.reset s.glob.band] rfl rfl

theorem processStages_logsGrow (c : Cfg) (s : State) : LogsGrow s (s.processStages c) := by
  obtain ⟨tx, rx, noise, stats, lqi, due, host, fe, e⟩ := processStages_eq c s
  rw [e]
  exact (LogsGrow.of_append host fe rfl rfl).trans (watchdogs_logsGrow c _)

theorem acceptFrame_logsGrow (c : Cfg) (q : TxRequest) (s : State) :
    LogsGrow s (s.acceptFrame c q) := by
  obtain ⟨noise, fe, e⟩ := acceptFrame_eq c q s
  rw [e]
  exact .of_append [] fe (by simp) rfl

theorem serve_logsGrow (c : Cfg) (txok rxok : Bool) (p : BitVec 9) (s : State) :
    LogsGrow s (s.serve c txok rxok p eventSources) := (serve_change c txok rxok p s).logsGrow

/-- Settles O20. -/
theorem logsOnlyGrow : Obligations.LogsOnlyGrow := by
  unfold Obligations.LogsOnlyGrow
  intro i s t h
  change LogsGrow s t
  cases exec_effect h with
  | result => exact .refl s
  | init b => exact .of_append [] [.reset b] (by simp [State.initWord]) rfl
  | reject q r => exact .of_append [_] [] rfl (by simp [State.rejectTx])
  | accept q => exact acceptFrame_logsGrow Config.cfg q s
  | read => exact .refl s
  | setting write => cases write <;> exact .refl s
  | process => exact processStages_logsGrow Config.cfg s
  | cancel => exact (cancelFrame_change s).event.logsGrow
  | drop => exact .refl s
  | linkError => exact .of_append [] [_] (by simp) rfl
  | events src txok rxok =>
    exact serve_logsGrow Config.cfg txok rxok (s.irqPending ||| src) (s.setResult .success)
  | tick => exact .refl s

/-! ## The window, the buffers and the waiting accesses -/

/-- The buffers, the waiting accesses, the last read value and the window but for RESULT are the
same. -/
structure WindowKept (s t : State) : Prop where
  mem : t.mem = s.mem
  inputs : t.inputs = s.inputs
  readData : t.readData = s.readData
  win : t.win = { s.win with result := t.win.result }

theorem processStages_window (c : Cfg) (s : State) : WindowKept s (s.processStages c) := by
  obtain ⟨tx, rx, noise, stats, lqi, due, host, fe, e⟩ := processStages_eq c s
  rw [e]
  obtain e' | ⟨stats', host', e'⟩ := watchdogs_cases c _ <;> rw [e'] <;> exact ⟨rfl, rfl, rfl, rfl⟩

/-- Every word keeps the buffers and the window but for RESULT, and PARAM_DATA too unless it is
GET_PARAM (R88, R90, R357). -/
theorem exec_window {i : Instr} {s t : State} (h : exec i s = .next t) :
    WindowKept s t ∨
      ∃ id v, i = .getParam id ∧
        t = { s with win := { s.win with paramData := v } }.setResult .success := by
  cases exec_effect h with
  | read id v => exact .inr ⟨id, v, rfl, rfl⟩
  | accept q =>
    obtain ⟨noise, fe, e⟩ := acceptFrame_eq Config.cfg q s
    rw [e]
    exact .inl ⟨rfl, rfl, rfl, rfl⟩
  | setting write => cases write <;> exact .inl ⟨rfl, rfl, rfl, rfl⟩
  | process =>
    obtain ⟨mem, inputs, readData, win⟩ := processStages_window Config.cfg s
    exact .inl ⟨mem, inputs, readData, by rw [State.setResult_win, win]⟩
  | events src txok rxok =>
    obtain ⟨tx, rx, noise, stats, fe, e⟩ :=
      serve_change Config.cfg txok rxok (s.irqPending ||| src) (s.setResult .success)
    rw [e]
    exact .inl ⟨rfl, rfl, rfl, rfl⟩
  | _ => exact .inl ⟨rfl, rfl, rfl, rfl⟩

/-! ## last_lqi -/

theorem exec_lastLqi {i : Instr} {s t : State} (h : exec i s = .next t) :
    t.lastLqi = s.lastLqi ∨ i = .process := by
  cases exec_effect h with
  | process => exact .inr rfl
  | accept q =>
    obtain ⟨noise, fe, e⟩ := acceptFrame_eq Config.cfg q s
    exact .inl (by rw [e])
  | setting write => cases write <;> exact .inl rfl
  | events src txok rxok =>
    obtain ⟨tx, rx, noise, stats, fe, e⟩ :=
      serve_change Config.cfg txok rxok (s.irqPending ||| src) (s.setResult .success)
    exact .inl (by rw [e]; rfl)
  | _ => exact .inl rfl

/-! ## Globals -/

/-- The globals after PHY reinitialisation (R412). -/
def Globals.reinit (g : Globals) : Globals :=
  { g with
    noiseDueMs := g.timeMs + g.noiseIntervalMs
    staticNotch := g.staticNotch &&& fullMask g.band }

/-- How a word writes the globals: `exec_globals`. -/
inductive GlobalsWrite (s : State) : Instr → Globals → Prop
  | keep (i : Instr) : GlobalsWrite s i s.glob
  | init (b : Band) :
      GlobalsWrite s (.init b) ({ s.glob with band := b, initialised := true } : Globals).reinit
  | capture : GlobalsWrite s .process
      { s.glob with noiseDueMs := s.glob.timeMs + s.glob.noiseIntervalMs }
  | watchdog : GlobalsWrite s .process s.glob.reinit
  | linkError (src : BitVec 9) (txok rxok : Bool)
      (link : (s.irqPending ||| src).getLsbD 0 = true) :
      GlobalsWrite s (.evIrq src txok rxok) s.glob.reinit
  | tick (d : BitVec 16) :
      GlobalsWrite s (.evTick d) { s.glob with timeMs := s.glob.timeMs + d.setWidth 32 }
  | staticNotch (k : Fin 4) (m : Mask)
      (inBand : s.glob.initialised = true → m &&& fullMask s.glob.band = m) :
      GlobalsWrite s (.setParam (BitVec.ofNat 16 k.val)) { s.glob with staticNotch := m }
  | legacyMode (v : Bool) :
      GlobalsWrite s (.setParam 0x0010#16) { s.glob with legacyMode := v }
  | forceNoOutput (v : Bool) :
      GlobalsWrite s (.setParam 0x0012#16) { s.glob with forceNoOutput := v }
  | noiseInterval (v : Word) (nonzero : v ≠ 0#32) :
      GlobalsWrite s (.setParam 0x0013#16)
        { s.glob with noiseIntervalMs := v, noiseDueMs := s.glob.timeMs + v }

@[simp] theorem deliverConfirm_glob (c : Cfg) (s : State) :
    (s.deliverConfirm c).glob = s.glob := by
  obtain ⟨imp, host, tx, e⟩ := deliverConfirm_change c s
  rw [e]

theorem noiseTrigger_glob (s : State) :
    s.noiseTrigger.glob = s.glob ∨
      s.noiseTrigger.glob =
        { s.glob with noiseDueMs := s.glob.timeMs + s.glob.noiseIntervalMs } := by
  unfold State.noiseTrigger
  split
  · exact .inr rfl
  · exact .inl rfl

theorem watchdogs_glob (c : Cfg) (s : State) :
    (s.watchdogs c).glob = s.glob ∨ (s.watchdogs c).glob = s.glob.reinit := by
  obtain e | ⟨stats, host, e⟩ := watchdogs_cases c s <;> rw [e]
  · exact .inl rfl
  · exact .inr rfl

theorem processStages_globals (c : Cfg) (s : State) :
    GlobalsWrite s .process (s.processStages c).glob := by
  have before : ((s.deliverConfirm c).rxDeferred c).glob = s.glob := by simp
  unfold State.processStages
  obtain e | e := watchdogs_glob c ((s.deliverConfirm c).rxDeferred c).noiseTrigger <;>
    obtain e' | e' := noiseTrigger_glob ((s.deliverConfirm c).rxDeferred c) <;>
    rw [e, e', before]
  · exact .keep _
  · exact .capture
  · exact .watchdog
  · exact .watchdog

theorem exec_globals {i : Instr} {s t : State} (h : exec i s = .next t) :
    GlobalsWrite s i t.glob := by
  cases exec_effect h with
  | init b => exact .init b
  | accept q =>
    obtain ⟨noise, fe, e⟩ := acceptFrame_eq Config.cfg q s
    rw [e]
    exact .keep _
  | setting write =>
    cases write with
    | staticNotch k m inBand => exact .staticNotch k m inBand
    | legacyMode v => exact .legacyMode v
    | forceNoOutput v => exact .forceNoOutput v
    | noiseInterval v nonzero => exact .noiseInterval v nonzero
    | _ => exact .keep _
  | process => exact processStages_globals Config.cfg s
  | linkError src txok rxok init link => exact .linkError src txok rxok link
  | events src txok rxok =>
    obtain ⟨tx, rx, noise, stats, fe, e⟩ :=
      serve_change Config.cfg txok rxok (s.irqPending ||| src) (s.setResult .success)
    rw [e]
    exact .keep _
  | tick d => exact .tick d
  | _ => exact .keep _

/-! ## ImpedanceState -/

theorem deliverConfirm_imp (c : Cfg) (s : State) :
    (s.deliverConfirm c).imp = s.imp ∨
      ∃ p, s.tx.pend = some p ∧ p.code = .success ∧ p.adapt = true ∧
        (s.deliverConfirm c).imp = (s.runGain c p).imp := by
  unfold State.deliverConfirm
  split
  · exact .inl rfl
  · next p hp =>
    unfold State.deliver State.adaptGain
    simp only
    split
    · next hadapt => exact .inr ⟨p, hp, hadapt.1, hadapt.2, rfl⟩
    · exact .inl rfl

/-- The later stages leave ImpedanceState alone or reinitialise it. -/
theorem processStages_imp (c : Cfg) (s : State) :
    (s.processStages c).imp = (s.deliverConfirm c).imp ∨
      (s.processStages c).imp = (s.freshPhy c).imp := by
  obtain ⟨tx, rx, noise, stats, lqi, due, host, fe, e⟩ := processStages_eq c s
  rw [e]
  obtain e' | ⟨stats', host', e'⟩ := watchdogs_cases c _ <;> rw [e']
  · exact .inl rfl
  · exact .inr rfl

/-- Settles O19: the three writers are read off the words' effects. -/
theorem impedanceWriters : Obligations.ImpedanceWriters := by
  unfold Obligations.ImpedanceWriters
  intro i s t h
  constructor
  · rintro (⟨b, rfl⟩ | ⟨hinit, src, txok, rxok, rfl, hlink⟩)
    · cases h
      rfl
    · rw [exec_evIrq, irqWord_of_linkError Config.cfg txok rxok hinit hlink] at h
      cases h
      rfl
  · cases exec_effect h with
    | init b => exact .inr (.inl ⟨rfl, .inl ⟨b, rfl⟩⟩)
    | accept q =>
      obtain ⟨noise, fe, e⟩ := acceptFrame_eq Config.cfg q s
      exact .inl (by rw [e])
    | setting write =>
      cases write with
      | impedance coupling auto gain idle =>
        obtain ⟨hstep, hpend⟩ := s.txIdle_iff.mp idle
        exact .inr (.inr (.inl ⟨rfl, hstep, hpend, rfl⟩))
      | _ => exact .inl rfl
    | process r =>
      rw [State.setResult_imp]
      obtain e | e := processStages_imp Config.cfg s
      · obtain e' | ⟨p, hpend, hcode, hadapt, e'⟩ := deliverConfirm_imp Config.cfg s
        · exact .inl (e.trans e')
        · rw [e, e']
          exact .inr (.inr (.inr ⟨rfl, p, hpend, hcode, hadapt, rfl, rfl, rfl⟩))
      · exact .inr (.inl ⟨e, .inr (.inl rfl)⟩)
    | linkError src txok rxok init link =>
      exact .inr (.inl ⟨rfl, .inr (.inr ⟨src, txok, rxok, rfl, link⟩)⟩)
    | events src txok rxok =>
      obtain ⟨tx, rx, noise, stats, fe, e⟩ :=
        serve_change Config.cfg txok rxok (s.irqPending ||| src) (s.setResult .success)
      exact .inl (by rw [e]; rfl)
    | _ => exact .inl rfl

/-! ## Counters -/

/-- Each counter is as it was, or is one of these and counted up by one (R41). -/
abbrev Counts (ks : List Nat) (s t : State) : Prop :=
  ∀ k : Fin 11, t.stats[k.val] = s.stats[k.val] ∨
    t.stats[k.val] = s.stats[k.val] + 1#32 ∧ k.val ∈ ks

theorem Counts.of_stats_eq (ks : List Nat) {s t : State} (h : t.stats = s.stats) : Counts ks s t :=
  fun _ => .inl (by rw [h])

theorem Counts.trans {ks ls : List Nat} {s t u : State} (h : Counts ks s t) (h' : Counts ls t u)
    (disjoint : ∀ k ∈ ks, k ∉ ls) : Counts (ks ++ ls) s u := by
  intro k
  obtain e | ⟨e, hk⟩ := h k <;> obtain e' | ⟨e', hl⟩ := h' k <;> rw [e', e]
  · exact .inl rfl
  · exact .inr ⟨rfl, List.mem_append_right _ hl⟩
  · exact .inr ⟨rfl, List.mem_append_left _ hk⟩
  · exact absurd hl (disjoint _ hk)

theorem Counts.bump (i : Stat) {s t : State} (h : t.stats = (s.bump i).stats) :
    Counts [i.index.val] s t := by
  intro k
  rw [h, State.bump_stats_get]
  split
  · next hk => exact .inr ⟨rfl, by simp [hk]⟩
  · exact .inl rfl

theorem Counts.mono {ks ls : List Nat} {s t : State} (h : Counts ks s t) (hsub : ks ⊆ ls) :
    Counts ls s t :=
  fun k => (h k).imp_right fun ⟨e, hk⟩ => ⟨e, hsub hk⟩

/-- PHY reinitialisation counts PHY_RESET (R412). -/
theorem reinit_counts (c : Cfg) (s : State) : Counts [10] s (s.reinit c true) :=
  .bump .phyReset (s.reinit_stats c true)

@[simp] theorem deliverConfirm_stats (c : Cfg) (s : State) :
    (s.deliverConfirm c).stats = s.stats := by
  obtain ⟨imp, host, tx, e⟩ := deliverConfirm_change c s
  rw [e]

@[simp] theorem noiseTrigger_stats (s : State) : s.noiseTrigger.stats = s.stats := by
  obtain ⟨noise, due, fe, e⟩ := noiseTrigger_change s
  rw [e]

theorem rxDeferred_counts (c : Cfg) (s : State) : Counts [3, 5] s (s.rxDeferred c) := by
  obtain e | e | ⟨i, e⟩ | e | ⟨r, out, n, -, -, e⟩ := rxDeferred_cases c s <;> rw [e]
  · exact .of_stats_eq _ rfl
  · exact .of_stats_eq _ rfl
  · exact (Counts.bump .rxOk rfl).mono (by decide)
  · exact (Counts.bump .rxRsErr rfl).mono (by decide)
  · exact .of_stats_eq _ rfl

theorem watchdogs_counts (c : Cfg) (s : State) : Counts [1, 8, 10] s (s.watchdogs c) := by
  unfold State.watchdogs
  split
  · have timeout : Counts [1] (s.reinit c true) (s.fireTxWatchdog c) := .bump .txTimeout rfl
    exact ((reinit_counts c s).trans timeout (by decide)).mono (by decide)
  · split
    · have timeout : Counts [8] s (s.bump .rxTimeout) := .bump .rxTimeout rfl
      exact (timeout.trans (reinit_counts c _) (by decide)).mono (by decide)
    · exact .of_stats_eq _ rfl

theorem processStages_counts (c : Cfg) (s : State) :
    Counts [1, 3, 5, 8, 10] s (s.processStages c) := by
  have confirm : Counts [] s (s.deliverConfirm c) := .of_stats_eq _ (by simp)
  have trigger : ∀ s : State, Counts [] s s.noiseTrigger := fun s => .of_stats_eq _ (by simp)
  exact (((confirm.trans (rxDeferred_counts c _) (by decide)).trans (trigger _) (by decide)).trans
    (watchdogs_counts c _) (by decide)).mono (by decide)

/-! ### Counters of events -/

/-- The counters the handler of a source other than LINK_ERROR can count up. -/
def IrqSource.counters : IrqSource → List Stat
  | .linkError => []
  | .csPeak => [.txCancel]
  | .txSymbol => [.txOk, .chainErr]
  | .rxSync => [.rxAbort]
  | .rxNoPeak2 => [.rxNoPeak2, .rxAbort]
  | .rxBuf => [.rxAbort, .rxBadCrc, .chainErr]
  | .rxAbort => [.rxAbort]
  | .agcDone => []
  | .captureDone => []

/-- A handler of source `q` counts nothing, or one of its counters up by one; where that is
RX_ABORT, the reception was not in Aborted and is now, so that no other handler of the word counts it
again. -/
inductive CountedBy (q : IrqSource) (s t : State) : Prop
  | none (same : t.stats = s.stats) (stays : s.rx.step = .aborted → t.rx.step = .aborted)
  | one (i : Stat) (mem : i ∈ q.counters) (up : t.stats = (s.bump i).stats)
      (stays : s.rx.step = .aborted → t.rx.step = .aborted)
      (abort : i = .rxAbort → s.rx.step ≠ .aborted ∧ t.rx.step = .aborted)

theorem CountedBy.refl (q : IrqSource) (s : State) : CountedBy q s s := .none rfl id

theorem CountedBy.stays {q : IrqSource} {s t : State} (h : CountedBy q s t) :
    s.rx.step = .aborted → t.rx.step = .aborted := by
  cases h <;> assumption

theorem receiving_ne_aborted {r : RxStep} (h : r.receiving = true) : r ≠ .aborted :=
  (r.receiving_iff.mp h).2.2

/-- An end of a reception with one counter. -/
theorem CountedBy.of_receiving {q : IrqSource} {s t : State} (i : Stat) (mem : i ∈ q.counters)
    (h : s.rx.step.receiving = true) (up : t.stats = (s.bump i).stats)
    (abort : i = .rxAbort → t.rx.step = .aborted) : CountedBy q s t :=
  .one i mem up (fun ha => absurd ha (receiving_ne_aborted h))
    fun hi => ⟨receiving_ne_aborted h, abort hi⟩

/-- Entry into a state while a reception goes on. -/
theorem CountedBy.quiet_of_receiving {q : IrqSource} {s t : State}
    (h : s.rx.step.receiving = true) (same : t.stats = s.stats) : CountedBy q s t :=
  .none same fun ha => absurd ha (receiving_ne_aborted h)

theorem NoiseChange.countedBy {q : IrqSource} {s t : State} :
    NoiseChange s t → CountedBy q s t := by
  rintro ⟨noise, fe, rfl⟩
  exact .none rfl id

theorem csPeak_counted (s : State) : CountedBy .csPeak s s.csPeak := by
  have arm : ∀ s : State, s.rxArm.stats = s.stats ∧
      (s.rx.step = .aborted → s.rxArm.rx.step = .aborted) := fun s => by
    unfold State.rxArm
    split
    · next idle => exact ⟨rfl, fun ha => by rw [idle] at ha; cases ha⟩
    · exact ⟨rfl, id⟩
  have after : ∀ s : State, s.abortCapture.rxArm.stats = s.stats ∧
      (s.rx.step = .aborted → s.abortCapture.rxArm.rx.step = .aborted) := fun s => by
    obtain ⟨noise, fe, e⟩ := abortCapture_change s
    obtain ⟨same, stays⟩ := arm s.abortCapture
    exact ⟨same.trans (by rw [e]), fun ha => stays (by rw [e]; exact ha)⟩
  unfold State.csPeak
  split
  · exact .refl ..
  · split
    · obtain ⟨same, stays⟩ := after s.cancelFrame
      exact .one .txCancel (by decide) same stays nofun
    · obtain ⟨same, stays⟩ := after s
      exact .none same stays

theorem txSymbol_counted (txok : Bool) (s : State) : CountedBy .txSymbol s (s.txSymbol txok) := by
  obtain e | ⟨t, -, -, e | e | ⟨nxt, fe, -, e⟩⟩ := txSymbol_cases txok s <;> rw [e]
  · exact .refl ..
  · exact .one .txOk (by decide) rfl id nofun
  · exact .one .chainErr (by decide) rfl id nofun
  · exact .none rfl id

theorem rxAbortAction_counted {q : IrqSource} {s : State} (hq : .rxAbort ∈ q.counters)
    (h : s.rx.step.receiving = true) : CountedBy q s s.rxAbortAction :=
  .of_receiving .rxAbort hq h rfl fun _ => rfl

theorem rxHeader_counted (c : Cfg) (r : RxControl) {s : State} (h : s.rx.step.receiving = true) :
    CountedBy .rxBuf s (s.rxHeader c r) := by
  obtain e | ⟨r', e, -⟩ | ⟨r', -, e | e⟩ := rxHeader_cases c r s <;> rw [e]
  · exact .of_receiving .rxBadCrc (by decide) h rfl nofun
  all_goals exact .quiet_of_receiving h rfl

theorem rxChunk_stats (c : Cfg) (r : RxControl) (s : State) : (s.rxChunk c r).stats = s.stats := by
  unfold State.rxChunk State.endBlock
  simp only
  split
  · split <;> rfl
  · rfl

theorem rxBuf_counted (c : Cfg) (rxok : Bool) (s : State) :
    CountedBy .rxBuf s (s.rxBuf c rxok) := by
  obtain e | ⟨h, e | ⟨r, -, e⟩⟩ := rxBuf_cases c rxok s <;> rw [e]
  · exact .refl ..
  · exact .of_receiving .chainErr (by decide) h rfl fun _ => rfl
  · unfold State.rxBuffer
    split
    case h_2 => exact rxAbortAction_counted (by decide) h
    case h_4 => exact rxHeader_counted c r h
    case h_7 => exact .quiet_of_receiving h (rxChunk_stats c r s)
    case h_8 => exact .quiet_of_receiving h (rxChunk_stats c r s)
    all_goals exact .quiet_of_receiving h rfl

/-- What a handler other than LINK_ERROR's counts (R41). -/
theorem handle_counted (c : Cfg) (txok rxok : Bool) {q : IrqSource} (hq : q ≠ .linkError)
    (s : State) : CountedBy q s (s.handle c txok rxok q) := by
  cases q with
  | linkError => exact absurd rfl hq
  | csPeak => exact csPeak_counted s
  | txSymbol => exact txSymbol_counted txok s
  | rxSync =>
    change CountedBy _ s s.rxSync
    obtain e | ⟨r, peak1, -, e⟩ | ⟨h, e⟩ := rxSync_cases s <;> rw [e]
    · exact .refl ..
    · exact .quiet_of_receiving (by rw [peak1]; rfl) rfl
    · exact rxAbortAction_counted (by decide) h
  | rxNoPeak2 =>
    change CountedBy _ s s.rxNoPeak2
    obtain e | ⟨h, e | e⟩ := rxNoPeak2_cases s <;> rw [e]
    · exact .refl ..
    · exact .of_receiving .rxNoPeak2 (by decide) h rfl nofun
    · exact rxAbortAction_counted (by decide) h
  | rxBuf => exact rxBuf_counted c rxok s
  | rxAbort =>
    change CountedBy _ s s.rxAbort
    obtain e | ⟨h, e⟩ := rxAbort_cases s <;> rw [e]
    · exact .refl ..
    · exact rxAbortAction_counted (by decide) h
  | agcDone => exact (agcDone_change s).countedBy
  | captureDone => exact (captureDone_change c s).countedBy

/-- The counter with an index. -/
def Stat.ofIndex : Fin 11 → Stat
  | 0 => .txOk
  | 1 => .txTimeout
  | 2 => .txCancel
  | 3 => .rxOk
  | 4 => .rxBadCrc
  | 5 => .rxRsErr
  | 6 => .rxNoPeak2
  | 7 => .rxAbort
  | 8 => .rxTimeout
  | 9 => .chainErr
  | 10 => .phyReset

theorem Stat.ofIndex_index (i : Stat) : Stat.ofIndex i.index = i := by cases i <;> rfl

theorem Stat.index_ofIndex : ∀ k : Fin 11, (Stat.ofIndex k).index = k := by decide

theorem Stat.index_injective : Function.Injective Stat.index :=
  Function.LeftInverse.injective Stat.ofIndex_index

/-- What a handler counts, counter by counter. -/
theorem CountedBy.get {q : IrqSource} {s t : State} (h : CountedBy q s t) (i : Stat) :
    ∃ n ≤ if i ∈ q.counters then 1 else 0,
      t.stats[i.index.val] = s.stats[i.index.val] + BitVec.ofNat 32 n := by
  cases h with
  | none same => exact ⟨0, Nat.zero_le _, by simp [same]⟩
  | one j mem up =>
    by_cases hj : j = i
    · subst hj
      exact ⟨1, by simp [mem], by rw [up, State.bump_stats_get, if_pos rfl]⟩
    · have other : j.index ≠ i.index := fun e => hj (Stat.index_injective e)
      exact ⟨0, Nat.zero_le _, by rw [up, State.bump_stats_get, if_neg other]; simp⟩

/-- A handler counts RX_ABORT only when it takes the reception to Aborted. -/
theorem CountedBy.get_rxAbort {q : IrqSource} {s t : State} (h : CountedBy q s t) :
    t.stats[7] = s.stats[7] ∨
      (s.rx.step ≠ .aborted ∧ t.rx.step = .aborted ∧ t.stats[7] = s.stats[7] + 1#32) := by
  cases h with
  | none same => exact .inl (by rw [same])
  | one i _ up _ abort =>
    have get : (s.bump i).stats[7] = _ := State.bump_stats_get s i 7
    rw [← up] at get
    by_cases hi : i = .rxAbort
    · obtain ⟨before, after⟩ := abort hi
      subst hi
      exact .inr ⟨before, after, get⟩
    · have other : i.index ≠ 7 := fun e => hi (Stat.index_injective (a₂ := .rxAbort) e)
      rw [if_neg other] at get
      exact .inl get

/-- A counter goes up at most once for each handler that can count it. -/
theorem serve_count_le (c : Cfg) (txok rxok : Bool) (p : BitVec 9) {qs : List IrqSource}
    (hqs : .linkError ∉ qs) (i : Stat) (s : State) :
    ∃ n ≤ qs.countP (i ∈ ·.counters),
      (s.serve c txok rxok p qs).stats[i.index.val] = s.stats[i.index.val] + BitVec.ofNat 32 n := by
  induction qs generalizing s with
  | nil => exact ⟨0, le_rfl, by simp [State.serve]⟩
  | cons q qs ih =>
    obtain ⟨hq, hqs⟩ := not_or.mp (mt List.mem_cons.mpr hqs)
    have first : CountedBy q s (if p.getLsbD q.bit then s.handle c txok rxok q else s) := by
      split
      · exact handle_counted c txok rxok (Ne.symm hq) s
      · exact .refl q s
    obtain ⟨m, hm, e⟩ := first.get i
    obtain ⟨n, hn, e'⟩ := ih hqs (if p.getLsbD q.bit then s.handle c txok rxok q else s)
    refine ⟨m + n, ?_, ?_⟩
    · simp only [List.countP_cons, decide_eq_true_eq]
      omega
    · rw [State.serve, e', e, BitVec.ofNat_add, BitVec.add_assoc]

/-- A reception is aborted at most once in a word, so RX_ABORT goes up by one at most. -/
theorem serve_rxAbort (c : Cfg) (txok rxok : Bool) (p : BitVec 9) {qs : List IrqSource}
    (hqs : .linkError ∉ qs) (s : State) :
    (s.serve c txok rxok p qs).stats[7] = s.stats[7] ∨
      s.rx.step ≠ .aborted ∧ (s.serve c txok rxok p qs).stats[7] = s.stats[7] + 1#32 := by
  induction qs generalizing s with
  | nil => exact .inl rfl
  | cons q qs ih =>
    obtain ⟨hq, hqs⟩ := not_or.mp (mt List.mem_cons.mpr hqs)
    have first : CountedBy q s (if p.getLsbD q.bit then s.handle c txok rxok q else s) := by
      split
      · exact handle_counted c txok rxok (Ne.symm hq) s
      · exact .refl q s
    rw [State.serve]
    obtain e | ⟨ne, e⟩ := ih hqs (if p.getLsbD q.bit then s.handle c txok rxok q else s) <;>
      rw [e] <;> obtain e' | ⟨before, after, e'⟩ := first.get_rxAbort
    · exact .inl e'
    · exact .inr ⟨before, e'⟩
    · exact .inr ⟨mt first.stays ne, by rw [e']⟩
    · exact absurd after ne

/-- Of the counters other than RX_ABORT only CHAIN_ERR is counted by two handlers (R41). -/
theorem countP_counters_le {i : Stat} (h : i ≠ .rxAbort) :
    eventSources.countP (i ∈ ·.counters) ≤
      if i = .chainErr then 2 else if i.index.val ∈ [0, 2, 4, 6, 7, 9] then 1 else 0 := by
  cases i with
  | rxAbort => exact absurd rfl h
  | _ => decide

/-- What the events of one EV_IRQ word count: each counter by one at most, but CHAIN_ERR by two
where both chains fail (R41). -/
theorem serve_counts (c : Cfg) (txok rxok : Bool) (p : BitVec 9) (s : State) (k : Fin 11) :
    (s.serve c txok rxok p eventSources).stats[k.val] = s.stats[k.val] ∨
      ((s.serve c txok rxok p eventSources).stats[k.val] = s.stats[k.val] + 1#32 ∨
        k.val = 9 ∧ (s.serve c txok rxok p eventSources).stats[k.val] = s.stats[k.val] + 2#32) ∧
      k.val ∈ [0, 2, 4, 6, 7, 9] := by
  obtain ⟨i, rfl⟩ : ∃ i : Stat, i.index = k := ⟨_, Stat.index_ofIndex k⟩
  by_cases habort : i = .rxAbort
  · subst habort
    exact (serve_rxAbort c txok rxok p (by decide) s).imp_right fun ⟨_, e⟩ => ⟨.inl e, by decide⟩
  obtain ⟨n, hn, e⟩ := serve_count_le c txok rxok p (qs := eventSources) (by decide) i s
  have bound := hn.trans (countP_counters_le habort)
  rw [e]
  by_cases hchain : i = .chainErr
  · subst hchain
    have hn2 : n ≤ 2 := bound
    interval_cases n
    · exact .inl (BitVec.add_zero _)
    · exact .inr ⟨.inl rfl, by decide⟩
    · exact .inr ⟨.inr ⟨rfl, rfl⟩, by decide⟩
  · rw [if_neg hchain] at bound
    split at bound
    · next hmem =>
      interval_cases n
      · exact .inl (BitVec.add_zero _)
      · exact .inr ⟨.inl rfl, hmem⟩
    · interval_cases n
      exact .inl (BitVec.add_zero _)

/-! ## Who writes what -/

/-- Every word but STATS_CLEAR leaves the counters or counts them up (R41). -/
theorem exec_stats {i : Instr} {s t : State} (h : exec i s = .next t) :
    i = .setParam 0x002F#16 ∧ t.stats = Vector.replicate 11 0#32 ∨
      ∀ k : Fin 11, t.stats[k.val] = s.stats[k.val] ∨
        (t.stats[k.val] = s.stats[k.val] + 1#32 ∨
          k.val = 9 ∧ t.stats[k.val] = s.stats[k.val] + 2#32) ∧
        (i = .process ∧ k.val ∈ [1, 3, 5, 8, 10] ∨ i = .cancel ∧ k.val = 2 ∨
          ∃ src txok rxok, i = .evIrq src txok rxok ∧
            (k.val ∈ [0, 2, 4, 6, 7, 9] ∨
              k.val = 10 ∧ (s.irqPending ||| src).getLsbD 0 = true)) := by
  cases exec_effect h with
  | accept q =>
    obtain ⟨noise, fe, e⟩ := acceptFrame_eq Config.cfg q s
    rw [e]
    exact .inr fun _ => .inl rfl
  | setting write =>
    cases write with
    | statsClear => exact .inl ⟨rfl, rfl⟩
    | _ => exact .inr fun _ => .inl rfl
  | process =>
    exact .inr fun k => (processStages_counts Config.cfg s k).imp_right
      fun ⟨e, hk⟩ => ⟨.inl e, .inl ⟨rfl, hk⟩⟩
  | cancel =>
    have counts : Counts [2] s s.cancelFrame := .bump .txCancel rfl
    exact .inr fun k => (counts k).imp_right
      fun ⟨e, hk⟩ => ⟨.inl e, .inr (.inl ⟨rfl, List.mem_singleton.mp hk⟩)⟩
  | linkError src txok rxok _ link =>
    exact .inr fun k => (reinit_counts Config.cfg (s.setResult .success) k).imp_right
      fun ⟨e, hk⟩ => ⟨.inl e, .inr (.inr ⟨src, txok, rxok, rfl,
        .inr ⟨List.mem_singleton.mp hk, link⟩⟩)⟩
  | events src txok rxok =>
    exact .inr fun k =>
      (serve_counts Config.cfg txok rxok (s.irqPending ||| src) (s.setResult .success) k).imp_right
        fun ⟨e, hk⟩ => ⟨e, .inr (.inr ⟨src, txok, rxok, rfl, .inl hk⟩)⟩
  | _ => exact .inr fun _ => .inl rfl

section

variable {i : Instr} {s : State} {g : Globals}

theorem GlobalsWrite.band_writers (h : GlobalsWrite s i g) :
    (g.band = s.glob.band ∧ g.initialised = s.glob.initialised) ∨
      (i = .init g.band ∧ g.initialised = true) := by
  cases h with
  | init b => exact .inr ⟨rfl, rfl⟩
  | _ => exact .inl ⟨rfl, rfl⟩

theorem GlobalsWrite.timeMs_writers (h : GlobalsWrite s i g) :
    g.timeMs = s.glob.timeMs ∨ ∃ d, i = .evTick d ∧ g.timeMs = s.glob.timeMs + d.setWidth 32 := by
  cases h with
  | tick d => exact .inr ⟨d, rfl, rfl⟩
  | _ => exact .inl rfl

theorem GlobalsWrite.legacyMode_writers (h : GlobalsWrite s i g) :
    g.legacyMode = s.glob.legacyMode ∨ i = .setParam 0x0010#16 := by
  cases h with
  | legacyMode => exact .inr rfl
  | _ => exact .inl rfl

theorem GlobalsWrite.forceNoOutput_writers (h : GlobalsWrite s i g) :
    g.forceNoOutput = s.glob.forceNoOutput ∨ i = .setParam 0x0012#16 := by
  cases h with
  | forceNoOutput => exact .inr rfl
  | _ => exact .inl rfl

theorem GlobalsWrite.noiseIntervalMs_writers (h : GlobalsWrite s i g) :
    g.noiseIntervalMs = s.glob.noiseIntervalMs ∨ i = .setParam 0x0013#16 := by
  cases h with
  | noiseInterval => exact .inr rfl
  | _ => exact .inl rfl

theorem GlobalsWrite.staticNotch_writers (h : GlobalsWrite s i g) :
    g.staticNotch = s.glob.staticNotch ∨
      g.staticNotch = s.glob.staticNotch &&& fullMask g.band ∨
      ∃ k : Fin 4, i = .setParam (BitVec.ofNat 16 k.val) := by
  cases h with
  | staticNotch k => exact .inr (.inr ⟨k, rfl⟩)
  | init | watchdog | linkError => exact .inr (.inl rfl)
  | _ => exact .inl rfl

theorem GlobalsWrite.noiseDueMs_writers (h : GlobalsWrite s i g) :
    g.noiseDueMs = s.glob.noiseDueMs ∨
      g.noiseDueMs = g.timeMs + g.noiseIntervalMs ∧
        ((∃ b, i = .init b) ∨ i = .process ∨ i = .setParam 0x0013#16 ∨
          ∃ src txok rxok, i = .evIrq src txok rxok ∧
            (s.irqPending ||| src).getLsbD 0 = true) := by
  cases h with
  | init b => exact .inr ⟨rfl, .inl ⟨b, rfl⟩⟩
  | capture | watchdog => exact .inr ⟨rfl, .inr (.inl rfl)⟩
  | noiseInterval => exact .inr ⟨rfl, .inr (.inr (.inl rfl))⟩
  | linkError src txok rxok link =>
    exact .inr ⟨rfl, .inr (.inr (.inr ⟨src, txok, rxok, rfl, link⟩))⟩
  | _ => exact .inl rfl

end

/-- Settles O18: each part of the state has its writers from its own lemma above. -/
theorem fieldWriters : Obligations.FieldWriters := by
  unfold Obligations.FieldWriters
  intro i s t h
  have glob := exec_globals h
  obtain ⟨frame, win, param⟩ : (t.mem = s.mem ∧ t.inputs = s.inputs ∧ t.readData = s.readData) ∧
      t.win = { s.win with result := t.win.result, paramData := t.win.paramData } ∧
      (t.win.paramData = s.win.paramData ∨ ∃ id, i = .getParam id) := by
    obtain ⟨mem, inputs, readData, win⟩ | ⟨id, v, rfl, rfl⟩ := exec_window h
    · have param : t.win.paramData = s.win.paramData := by rw [win]
      exact ⟨⟨mem, inputs, readData⟩, by rw [param]; exact win, .inl param⟩
    · exact ⟨⟨rfl, rfl, rfl⟩, rfl, .inr ⟨id, rfl⟩⟩
  exact ⟨frame, win, param, glob.band_writers, glob.timeMs_writers, glob.legacyMode_writers,
    glob.forceNoOutput_writers, glob.noiseIntervalMs_writers, glob.staticNotch_writers,
    exec_lastLqi h, glob.noiseDueMs_writers, exec_stats h⟩

end Sys2Proof.Machine
end

section
/-! PROOF. The invariants over all steps: the moves of the TX and the RX machine, the machines
together (R61), their value at reset, and a payload chunk. -/

namespace Sys2Proof.Machine

/-! ## The TX machine -/

/-- R61 (a) and (c): the record exists exactly while a frame is on the air, and a cancelled frame
has its confirmation waiting. -/
structure TxMachine.Owned (m : TxMachine) : Prop where
  record : m.ctl.isSome = true ↔ m.step ≠ .idle ∧ m.step ≠ .cancelled
  cancelled : m.step = .cancelled → m.pend ≠ none

/-- The step names the frame's symbol (R46, R262), and no confirmation waits while a frame is on the
air (R354). -/
structure TxMachine.Sound (m : TxMachine) : Prop where
  tracks : ∀ t ∈ m.ctl, ∃ sym ∈ t.seq[t.pos]?, m.step = stepOfSym t.flb sym
  slot : m.step.busy = true → m.pend = none

theorem TxMachine.reset_owned : TxMachine.reset.Owned := ⟨by decide, by decide⟩

theorem TxMachine.reset_sound : TxMachine.reset.Sound := ⟨nofun, fun _ => rfl⟩

/-- How the TX machine moves but for acceptance and reinitialisation: no frame comes on the air, *TX
idle* lasts, and the invariants of the machine are kept. -/
structure TxMove (m m' : TxMachine) : Prop where
  air : m'.step.busy = true → m.step.busy = true
  idle : m.step = .idle ∧ m.pend = none → m'.step = .idle ∧ m'.pend = none
  owned : m.Owned → m'.Owned
  sound : m.Sound → m'.Sound

theorem TxMove.refl (m : TxMachine) : TxMove m m := ⟨id, id, id, id⟩

theorem TxMove.trans {m m' m'' : TxMachine} (h : TxMove m m') (h' : TxMove m' m'') : TxMove m m'' :=
  ⟨h.air ∘ h'.air, h'.idle ∘ h.idle, h'.owned ∘ h.owned, h'.sound ∘ h.sound⟩

/-- A frame leaves the air, its record gone and a confirmation in the slot (R45). -/
theorem TxMove.endFrame {m : TxMachine} (busy : m.step.busy = true) {step : TxStep} (p : Pending)
    (hstep : step = .idle ∨ step = .cancelled) :
    TxMove m { step := step, ctl := none, pend := some p } := by
  have quiet : step.busy = false := by obtain rfl | rfl := hstep <;> rfl
  refine ⟨fun h => ?_, fun ⟨h, _⟩ => ?_, fun _ => ⟨?_, fun _ => nofun⟩,
    fun _ => ⟨nofun, fun h => ?_⟩⟩
  · exact absurd h (by simp [quiet])
  · exact absurd (m.step.busy_iff.mp busy).1 (not_not.mpr h)
  · obtain rfl | rfl := hstep <;> simp
  · exact absurd h (by simp [quiet])

/-- A frame moves to the symbol `nxt` of its sequence (R265). -/
theorem TxMove.enterSymbol {m : TxMachine} (busy : m.step.busy = true) {t : TxControl} {nxt : TxSym}
    (hnxt : t.seq[t.pos + 1]? = some nxt) :
    TxMove m { m with step := stepOfSym t.flb nxt, ctl := some { t with pos := t.pos + 1 } } := by
  have busy' := stepOfSym_busy t.flb nxt
  obtain ⟨hidle, hcancelled⟩ := (TxStep.busy_iff _).mp busy'
  refine ⟨fun _ => busy, fun ⟨h, _⟩ => ?_, fun _ => ⟨?_, fun h => absurd h hcancelled⟩,
    fun hs => ⟨?_, fun _ => hs.slot busy⟩⟩
  · exact absurd (m.step.busy_iff.mp busy).1 (not_not.mpr h)
  · simp [hidle, hcancelled]
  · rintro _ ⟨⟩
    exact ⟨nxt, hnxt, rfl⟩

theorem cancelFrame_txMove {s : State} (h : s.tx.step.prePayload = true) :
    TxMove s.tx s.cancelFrame.tx :=
  .endFrame (by simp [TxStep.busy, h]) _ (.inr rfl)

theorem txSymbol_txMove (txok : Bool) (s : State) : TxMove s.tx (s.txSymbol txok).tx := by
  obtain e | ⟨t, busy, -, e | e | ⟨nxt, fe, hnxt, e⟩⟩ := txSymbol_cases txok s <;> rw [e]
  · exact .refl _
  · exact .endFrame busy _ (.inl rfl)
  · exact .endFrame busy _ (.inl rfl)
  · exact .enterSymbol busy hnxt

/-- Delivery empties the slot and lets a cancelled frame go (R368). -/
theorem deliverConfirm_txMove (c : Cfg) (s : State) : TxMove s.tx (s.deliverConfirm c).tx := by
  unfold State.deliverConfirm
  split
  · exact .refl _
  next p hp =>
  have e : (s.deliver c p).tx = { s.tx with
      pend := none
      step := if s.tx.step = .cancelled then .idle else s.tx.step } := by
    unfold State.deliver State.adaptGain
    simp only
    split <;> rfl
  rw [e]
  by_cases hc : s.tx.step = .cancelled
  · rw [if_pos hc]
    refine ⟨nofun, fun _ => ⟨rfl, rfl⟩, fun ho => ⟨?_, nofun⟩, fun hs => ⟨fun t ht => ?_, nofun⟩⟩
    · simpa [hc] using ho.record
    · obtain ⟨sym, -, hstep⟩ := hs.tracks t ht
      have busy := stepOfSym_busy t.flb sym
      rw [← hstep, hc] at busy
      cases busy
  · rw [if_neg hc]
    exact ⟨id, fun h => ⟨h.1, rfl⟩, fun ho => ⟨ho.record, fun h => absurd h hc⟩,
      fun hs => ⟨hs.tracks, fun _ => rfl⟩⟩

/-- An accepted frame is at its first symbol (R354). -/
theorem acceptFrame_tx (c : Cfg) (q : TxRequest) (s : State) :
    (s.acceptFrame c q).tx =
      { s.tx with step := .preambleFirst, ctl := some (s.frameControl c q) } := by
  obtain ⟨noise, fe, e⟩ := acceptFrame_eq c q s
  rw [e]

theorem frameControl_first (c : Cfg) (q : TxRequest) (s : State) :
    (s.frameControl c q).seq[(s.frameControl c q).pos]? = some (.pre 1) := by
  unfold State.frameControl
  split <;> rfl

theorem acceptFrame_tx_sound (c : Cfg) (q : TxRequest) {s : State} (idle : s.txIdle = true) :
    (s.acceptFrame c q).tx.Sound := by
  rw [acceptFrame_tx]
  refine ⟨?_, fun _ => (s.txIdle_iff.mp idle).2⟩
  rintro _ ⟨⟩
  exact ⟨.pre 1, frameControl_first c q s, rfl⟩

/-! ## The RX machine -/

/-- The block buffers hold at most 512 bytes each (R50, log 9). -/
structure RxControl.Bounded (r : RxControl) : Prop where
  buf : r.buf.length = 2
  bufRest : r.bufRest.length = 2
  bytes : ∀ bytes ∈ r.buf, bytes.length ≤ 512

/-- What the record's block number is in a state (R312, R316, R318). -/
structure RxControl.NumberedIn (r : RxControl) (step : RxStep) : Prop where
  ack : r.ack = true → step = .waitReedSolomon ∧ r.blk = 0
  blk : r.blk ≠ 0 → r.blk = 1 ∧ r.nblk = 2 ∧
    step ∈ [.payloadFirst, .payloadDemod, .waitReedSolomon, .aborted]

/-- R61 (b): the record exists exactly while the machine runs. -/
abbrev RxMachine.Owned (m : RxMachine) : Prop := m.ctl.isSome = true ↔ m.step ≠ .idle

/-- The sub-state is nonzero exactly in PayloadDemod (R49), and the record is bounded and
numbered. -/
structure RxMachine.Sound (m : RxMachine) : Prop where
  sub : m.sub ≠ .none ↔ m.step = .payloadDemod
  bounded : ∀ r ∈ m.ctl, r.Bounded
  numbered : ∀ r ∈ m.ctl, r.NumberedIn m.step

/-- Outside PayloadDemod the sub-state is 0. -/
theorem sub_none_iff {step : RxStep} (h : step ≠ .payloadDemod) :
    RxSub.none ≠ .none ↔ step = .payloadDemod := iff_of_false (not_not.mpr rfl) h

theorem RxMachine.reset_owned : RxMachine.reset.Owned := by decide

theorem RxMachine.reset_sound : RxMachine.reset.Sound := ⟨by decide, nofun, nofun⟩

/-- How the RX machine moves but for CS_PEAK: it does not wake, and the invariants of the machine
are kept. -/
structure RxMove (m m' : RxMachine) : Prop where
  idle : m.step = .idle → m'.step = .idle
  owned : m.Owned → m'.Owned
  sound : m.Sound → m'.Sound

theorem RxMove.refl (m : RxMachine) : RxMove m m := ⟨id, id, id⟩

theorem RxMove.trans {m m' m'' : RxMachine} (h : RxMove m m') (h' : RxMove m' m'') : RxMove m m'' :=
  ⟨h'.idle ∘ h.idle, h'.owned ∘ h.owned, h'.sound ∘ h.sound⟩

theorem RxMove.toIdle (m : RxMachine) : RxMove m .reset :=
  ⟨fun _ => rfl, fun _ => RxMachine.reset_owned, fun _ => RxMachine.reset_sound⟩

/-- The machine runs on with the record `r'` in place of `r`. -/
theorem RxMove.enter {m : RxMachine} {r r' : RxControl} {step : RxStep} {sub : RxSub}
    (hctl : m.ctl = some r) (live : m.step ≠ .idle) (live' : step ≠ .idle)
    (hsub : sub ≠ .none ↔ step = .payloadDemod) (bounded : r.Bounded → r'.Bounded)
    (numbered : r.NumberedIn m.step → r'.NumberedIn step) :
    RxMove m { step := step, sub := sub, ctl := some r' } := by
  refine ⟨fun h => absurd h live, fun _ => iff_of_true rfl live', fun hs => ⟨hsub, ?_, ?_⟩⟩
  · rintro _ ⟨⟩
    exact bounded (hs.bounded r hctl)
  · rintro _ ⟨⟩
    exact numbered (hs.numbered r hctl)

/-- A reception is given up, its record kept until PROCESS (R307, R320). -/
theorem RxMove.toAborted {m : RxMachine} (h : m.step.receiving = true) :
    RxMove m { m with step := .aborted, sub := .none } := by
  obtain ⟨live, notWaiting, -⟩ := m.step.receiving_iff.mp h
  refine ⟨fun h => absurd h live, fun ho => iff_of_true (ho.mpr live) nofun,
    fun hs => ⟨sub_none_iff nofun, hs.bounded, fun r hr => ⟨fun hack => ?_, fun hblk => ?_⟩⟩⟩
  · exact absurd ((hs.numbered r hr).ack hack).1 notWaiting
  · obtain ⟨one, two, -⟩ := (hs.numbered r hr).blk hblk
    exact ⟨one, two, by simp⟩

/-! ### Records -/

theorem RxControl.fresh_bounded (start : Word) : (RxControl.fresh start).Bounded :=
  ⟨rfl, rfl, by simp [RxControl.fresh]⟩

theorem RxControl.fresh_numbered (start : Word) (step : RxStep) :
    (RxControl.fresh start).NumberedIn step := ⟨nofun, fun h => absurd rfl h⟩

/-- Setting a block's bytes keeps the bounds: `buf` gets the first 512 (R50, log 9). -/
theorem RxControl.Bounded.setBlockBytes {r : RxControl} (h : r.Bounded) (k : Nat)
    (bytes : List Byte) : (r.setBlockBytes k bytes).Bounded := by
  refine ⟨by simp [RxControl.setBlockBytes, h.buf], by simp [RxControl.setBlockBytes, h.bufRest],
    fun b hb => ?_⟩
  obtain hb | rfl := List.mem_or_eq_of_mem_set hb
  · exact h.bytes b hb
  · exact List.length_take_le ..

theorem RxControl.Bounded.takeChunk {r : RxControl} (h : r.Bounded) (chunk : List Byte) :
    (r.takeChunk chunk).Bounded := by
  obtain ⟨buf, bufRest, bytes⟩ := h.setBlockBytes r.blk (r.blockBytes r.blk ++ chunk)
  exact ⟨buf, bufRest, bytes⟩

/-- Before the payload of a data frame no block has been numbered. -/
theorem RxControl.NumberedIn.unstarted {r : RxControl} {step : RxStep} (h : r.NumberedIn step)
    (before : step ∉ [.payloadFirst, .payloadDemod, .waitReedSolomon, .aborted]) :
    r.ack = false ∧ r.blk = 0 := by
  refine ⟨Bool.eq_false_iff.mpr fun hack => ?_, not_not.mp fun hblk => before (h.blk hblk).2.2⟩
  rw [(h.ack hack).1] at before
  exact before (by decide)

theorem RxControl.numberedIn_of_unstarted {r : RxControl} (step : RxStep) (hack : r.ack = false)
    (hblk : r.blk = 0) : r.NumberedIn step :=
  ⟨fun h => Bool.noConfusion (hack.symm.trans h), fun h => absurd hblk h⟩

/-! ### Events -/

theorem rxAbortAction_rxMove {s : State} (h : s.rx.step.receiving = true) :
    RxMove s.rx s.rxAbortAction.rx := .toAborted h

theorem rxSync_rxMove (s : State) : RxMove s.rx s.rxSync.rx := by
  obtain e | ⟨r, peak1, hctl, e⟩ | ⟨h, e⟩ := rxSync_cases s <;> rw [e]
  · exact .refl _
  · refine .enter hctl (by rw [peak1]; decide) (by decide) (by decide) (fun hb => ?_) fun hn => ?_
    · exact ⟨hb.buf, hb.bufRest, hb.bytes⟩
    · obtain ⟨hack, hblk⟩ := hn.unstarted (by rw [peak1]; decide)
      exact RxControl.numberedIn_of_unstarted _ hack hblk
  · exact .toAborted h

theorem rxNoPeak2_rxMove (s : State) : RxMove s.rx s.rxNoPeak2.rx := by
  obtain e | ⟨h, e | e⟩ := rxNoPeak2_cases s <;> rw [e]
  · exact .refl _
  · exact .toIdle _
  · exact .toAborted h

theorem rxAbort_rxMove (s : State) : RxMove s.rx s.rxAbort.rx := by
  obtain e | ⟨h, e⟩ := rxAbort_cases s <;> rw [e]
  · exact .refl _
  · exact .toAborted h

/-- Block 0 starts from a state before the payload (R316). -/
theorem startBlock_zero_rxMove (c : Cfg) {r r' : RxControl} {s : State} (hctl : s.rx.ctl = some r)
    (live : s.rx.step ≠ .idle) (bounded : r.Bounded → r'.Bounded)
    (ack : r.NumberedIn s.rx.step → r'.ack = false) : RxMove s.rx (s.startBlock c r' 0).rx := by
  refine .enter hctl live (by decide) (by decide) (fun hb => ?_) fun hn => ?_
  · obtain ⟨buf, bufRest, bytes⟩ := (bounded hb).setBlockBytes 0 []
    exact ⟨buf, bufRest, bytes⟩
  · exact RxControl.numberedIn_of_unstarted _ (ack hn) rfl

theorem rxHeader_rxMove (c : Cfg) {r : RxControl} {s : State} (hctl : s.rx.ctl = some r)
    (hstep : s.rx.step = .headerDemod) : RxMove s.rx (s.rxHeader c r).rx := by
  have live : s.rx.step ≠ .idle := by rw [hstep]; decide
  have unstarted : r.NumberedIn s.rx.step → r.ack = false ∧ r.blk = 0 :=
    fun hn => hn.unstarted (by rw [hstep]; decide)
  obtain e | ⟨r', e, hblk, hbuf, hrest⟩ | ⟨r', ⟨hack, hblk, hbuf, hrest⟩, e | e⟩ :=
    rxHeader_cases c r s <;> rw [e]
  · exact .toIdle _
  · refine .enter hctl live (by decide) (by decide) (fun hb => ?_) fun hn => ?_
    · exact ⟨hbuf ▸ hb.buf, hrest ▸ hb.bufRest, hbuf ▸ hb.bytes⟩
    · have zero : r'.blk = 0 := hblk.trans (unstarted hn).2
      exact ⟨fun _ => ⟨rfl, zero⟩, fun h => absurd zero h⟩
  · refine .enter hctl live (by decide) (by decide) (fun _ => ?_) fun hn => ?_
    · exact ⟨by simp [hbuf], by simp [hrest], by simp [hbuf]⟩
    · exact RxControl.numberedIn_of_unstarted _ hack (hblk.trans (unstarted hn).2)
  · refine startBlock_zero_rxMove c hctl live (fun _ => ?_) fun _ => hack
    exact ⟨by simp [hbuf], by simp [hrest], by simp [hbuf]⟩

theorem chunkKind_ne_none (B n rem : Nat) : chunkKind B n rem ≠ .none := by
  unfold chunkKind
  split
  · decide
  · split <;> decide

/-- A payload chunk: the next chunk, block 1, or the end (R317-R319). -/
theorem rxChunk_rxMove (c : Cfg) {r : RxControl} {s : State} (hctl : s.rx.ctl = some r)
    (hstep : s.rx.step = .payloadFirst ∨ s.rx.step = .payloadDemod) :
    RxMove s.rx (s.rxChunk c r).rx := by
  have live : s.rx.step ≠ .idle := by obtain h | h := hstep <;> rw [h] <;> decide
  have data : r.NumberedIn s.rx.step → r.ack ≠ true := fun hn hack => by
    obtain h | h := hstep <;> rw [(hn.ack hack).1] at h <;> cases h
  unfold State.rxChunk State.endBlock
  simp only
  split
  · split
    · next hblocks =>
      refine .enter hctl live (by decide) (by decide) (fun hb => ?_) fun hn => ?_
      · obtain ⟨buf, bufRest, bytes⟩ := (hb.takeChunk s.rxChunkBytes).setBlockBytes 1 []
        exact ⟨buf, bufRest, bytes⟩
      · exact ⟨fun h => absurd h (data hn), fun _ => ⟨rfl, hblocks.2, by decide⟩⟩
    · refine .enter hctl live (by decide) (by decide) (fun hb => ?_) fun hn => ?_
      · obtain ⟨buf, bufRest, bytes⟩ := hb.takeChunk s.rxChunkBytes
        exact ⟨buf, bufRest, bytes⟩
      · refine ⟨fun h => absurd h (data hn), fun h => ?_⟩
        obtain ⟨one, two, -⟩ := hn.blk h
        exact ⟨one, two, by decide⟩
  · refine .enter hctl live (by decide) ?_ (fun hb => ?_) fun hn => ?_
    · exact iff_of_true (chunkKind_ne_none _ _ _) rfl
    · obtain ⟨buf, bufRest, bytes⟩ := hb.takeChunk s.rxChunkBytes
      exact ⟨buf, bufRest, bytes⟩
    · refine ⟨fun h => absurd h (data hn), fun h => ?_⟩
      obtain ⟨one, two, -⟩ := hn.blk h
      exact ⟨one, two, by decide⟩

theorem rxBuffer_rxMove (c : Cfg) {r : RxControl} {s : State} (hctl : s.rx.ctl = some r)
    (h : s.rx.step.receiving = true) : RxMove s.rx (s.rxBuffer c r).rx := by
  have live : s.rx.step ≠ .idle := (s.rx.step.receiving_iff.mp h).1
  have next : ∀ step : RxStep, step ≠ .idle → step ≠ .payloadDemod →
      s.rx.step ∉ [.payloadFirst, .payloadDemod, .waitReedSolomon, .aborted] →
      RxMove s.rx (s.rxEnter step r).rx := fun step hidle hdemod before =>
    .enter hctl live hidle (by simp [hdemod]) id fun hn =>
      RxControl.numberedIn_of_unstarted _ (hn.unstarted before).1 (hn.unstarted before).2
  cases hstep : s.rx.step <;> simp only [State.rxBuffer, hstep]
  case peak1 => exact rxAbortAction_rxMove h
  case peak2 => exact next .headerDemod (by decide) (by decide) (by rw [hstep]; decide)
  case headerDemod => exact rxHeader_rxMove c hctl hstep
  case cohS1 => exact next .cohS2 (by decide) (by decide) (by rw [hstep]; decide)
  case cohS2 =>
    exact startBlock_zero_rxMove c hctl live id fun hn =>
      (hn.unstarted (by rw [hstep]; decide)).1
  case payloadFirst => exact rxChunk_rxMove c hctl (.inl hstep)
  case payloadDemod => exact rxChunk_rxMove c hctl (.inr hstep)
  all_goals exact .refl _

theorem rxBuf_rxMove (c : Cfg) (rxok : Bool) (s : State) : RxMove s.rx (s.rxBuf c rxok).rx := by
  obtain e | ⟨h, e | ⟨r, hctl, e⟩⟩ := rxBuf_cases c rxok s <;> rw [e]
  · exact .refl _
  · exact .toAborted h
  · exact rxBuffer_rxMove c hctl h

theorem rxDeferred_rxMove (c : Cfg) (s : State) : RxMove s.rx (s.rxDeferred c).rx := by
  obtain e | e | ⟨i, e⟩ | e | ⟨r, out, n, hstep, hctl, e⟩ := rxDeferred_cases c s <;> rw [e]
  · exact .refl _
  · exact .toIdle _
  · exact .toIdle _
  · exact .toIdle _
  · refine .enter hctl (by rw [hstep]; decide) (by decide) (by decide) (fun hb => ?_) fun hn => ?_
    · exact ⟨hb.buf, hb.bufRest, hb.bytes⟩
    · rw [hstep] at hn
      exact ⟨hn.ack, hn.blk⟩

/-- CS_PEAK wakes an idle receiver with a fresh record (R301). -/
theorem rxArm_sound {s : State} (h : s.rx.Sound) : s.rxArm.rx.Sound := by
  unfold State.rxArm
  split
  · refine ⟨sub_none_iff nofun, ?_, ?_⟩ <;> rintro _ ⟨⟩
    · exact RxControl.fresh_bounded _
    · exact RxControl.fresh_numbered ..
  · exact h

theorem rxArm_owned {s : State} (h : s.rx.Owned) : s.rxArm.rx.Owned := by
  unfold State.rxArm
  split
  · exact iff_of_true rfl nofun
  · exact h

/-! ## The machines together -/

/-- R61 (a) to (e): each machine owns its record, and transmission, reception and noise capture
exclude each other. -/
structure MachinesCoherent (tx : TxMachine) (rx : RxMachine) (noise : NoiseStep) : Prop where
  txOwned : tx.Owned
  rxOwned : rx.Owned
  onAir : tx.step.busy = true → rx.step = .idle ∧ noise = .idle
  capturing : noise ≠ .idle → (tx.step = .idle ∧ tx.pend = none) ∧ rx.step = .idle

abbrev State.Coherent (s : State) : Prop := MachinesCoherent s.tx s.rx s.noise.step

/-- The invariants of the two machines on their own. -/
abbrev State.MachinesSound (s : State) : Prop := s.tx.Sound ∧ s.rx.Sound

theorem MachinesCoherent.reset : MachinesCoherent .reset .reset .idle :=
  ⟨TxMachine.reset_owned, RxMachine.reset_owned, nofun, fun h => absurd rfl h⟩

/-- A move after which no machine is busy that was idle. -/
structure MachineMove (s t : State) : Prop where
  tx : TxMove s.tx t.tx
  rx : RxMove s.rx t.rx
  noise : s.noise.step = .idle → t.noise.step = .idle

theorem MachineMove.coherent {s t : State} (h : MachineMove s t) (hs : s.Coherent) :
    t.Coherent where
  txOwned := h.tx.owned hs.txOwned
  rxOwned := h.rx.owned hs.rxOwned
  onAir busy :=
    have ⟨rxIdle, noiseIdle⟩ := hs.onAir (h.tx.air busy)
    ⟨h.rx.idle rxIdle, h.noise noiseIdle⟩
  capturing running :=
    have ⟨txIdle, rxIdle⟩ := hs.capturing (mt h.noise running)
    ⟨h.tx.idle txIdle, h.rx.idle rxIdle⟩

theorem MachineMove.sound {s t : State} (h : MachineMove s t) (hs : s.MachinesSound) :
    t.MachinesSound := ⟨h.tx.sound hs.1, h.rx.sound hs.2⟩

theorem MachineMove.refl (s : State) : MachineMove s s := ⟨.refl _, .refl _, id⟩

theorem MachineMove.trans {s t u : State} (h : MachineMove s t) (h' : MachineMove t u) :
    MachineMove s u := ⟨h.tx.trans h'.tx, h.rx.trans h'.rx, h'.noise ∘ h.noise⟩

theorem TxChange.machineMove {s t : State} (h : TxChange s t) (move : TxMove s.tx t.tx) :
    MachineMove s t := by
  obtain ⟨tx, stats, fe, rfl⟩ := h
  exact ⟨move, .refl _, id⟩

theorem RxChange.machineMove {s t : State} (h : RxChange s t) (move : RxMove s.rx t.rx) :
    MachineMove s t := by
  obtain ⟨rx, stats, fe, rfl⟩ := h
  exact ⟨.refl _, move, id⟩

theorem NoiseChange.machineMove {s t : State} (h : NoiseChange s t)
    (idle : s.noise.step = .idle → t.noise.step = .idle) : MachineMove s t := by
  obtain ⟨noise, fe, rfl⟩ := h
  exact ⟨.refl _, .refl _, idle⟩

/-! ### Events -/

theorem agcDone_of_idle {s : State} (h : s.noise.step = .idle) : s.agcDone = s := by
  simp [State.agcDone, h]

theorem captureDone_of_idle {s : State} (c : Cfg) (h : s.noise.step = .idle) :
    s.captureDone c = s := by
  simp [State.captureDone, h]

theorem abortCapture_noise (s : State) : s.abortCapture.noise.step = .idle := by
  unfold State.abortCapture
  split
  · assumption
  · rfl

/-- The events but CS_PEAK start nothing. -/
theorem handle_machineMove (c : Cfg) (txok rxok : Bool) {q : IrqSource} (hlink : q ≠ .linkError)
    (hpeak : q ≠ .csPeak) (s : State) : MachineMove s (s.handle c txok rxok q) := by
  cases q with
  | linkError => exact absurd rfl hlink
  | csPeak => exact absurd rfl hpeak
  | txSymbol => exact (txSymbol_change txok s).machineMove (txSymbol_txMove txok s)
  | rxSync => exact (rxSync_change s).machineMove (rxSync_rxMove s)
  | rxNoPeak2 => exact (rxNoPeak2_change s).machineMove (rxNoPeak2_rxMove s)
  | rxBuf => exact (rxBuf_change c rxok s).machineMove (rxBuf_rxMove c rxok s)
  | rxAbort => exact (rxAbort_change s).machineMove (rxAbort_rxMove s)
  | agcDone =>
    exact (agcDone_change s).machineMove fun h => by rwa [agcDone_of_idle h]
  | captureDone =>
    exact (captureDone_change c s).machineMove fun h => by rwa [captureDone_of_idle c h]

/-- CS_PEAK outside the payload clears the way for a reception: no frame is left on the air, no
capture runs (R277, R225), and then the receiver may wake (R301). -/
theorem csPeak_cases (s : State) :
    s.csPeak = s ∨
      ∃ t, MachineMove s t ∧ t.tx.step.busy = false ∧ t.noise.step = .idle ∧
        s.csPeak = t.rxArm := by
  unfold State.csPeak
  split
  · exact .inl rfl
  next hpay =>
  have abort : ∀ s : State, MachineMove s s.abortCapture := fun s =>
    (abortCapture_change s).machineMove fun _ => abortCapture_noise s
  have tx : ∀ s : State, s.abortCapture.tx = s.tx := fun s => by
    obtain ⟨noise, fe, e⟩ := abortCapture_change s
    rw [e]
  refine .inr ⟨_, ?_, ?_, abortCapture_noise _, rfl⟩
  · split
    · next hpre =>
      exact ((cancelFrame_change s).machineMove (cancelFrame_txMove hpre)).trans (abort _)
    · exact abort s
  · rw [tx]
    split
    · rfl
    · next hpre => simp [TxStep.busy, hpre, hpay]

theorem rxArm_frame (s : State) : s.rxArm.tx = s.tx ∧ s.rxArm.noise = s.noise := by
  obtain ⟨rx, stats, fe, e⟩ := rxArm_change s
  rw [e]
  exact ⟨rfl, rfl⟩

theorem csPeak_coherent {s : State} (hs : s.Coherent) : s.csPeak.Coherent := by
  obtain e | ⟨t, move, quiet, idle, e⟩ := csPeak_cases s <;> rw [e]
  · exact hs
  · have ht := move.coherent hs
    obtain ⟨htx, hnoise⟩ := rxArm_frame t
    unfold State.Coherent
    rw [htx, hnoise, idle]
    exact ⟨ht.txOwned, rxArm_owned ht.rxOwned, fun h => Bool.noConfusion (quiet.symm.trans h),
      fun h => absurd rfl h⟩

theorem csPeak_sound {s : State} (hs : s.MachinesSound) : s.csPeak.MachinesSound := by
  obtain e | ⟨t, move, -, -, e⟩ := csPeak_cases s <;> rw [e]
  · exact hs
  · obtain ⟨htx, hrx⟩ := move.sound hs
    exact ⟨(rxArm_frame t).1 ▸ htx, rxArm_sound hrx⟩

theorem serve_coherent (c : Cfg) (txok rxok : Bool) (p : BitVec 9) {s : State} (hs : s.Coherent) :
    (s.serve c txok rxok p eventSources).Coherent := by
  refine serve_keeps (P := State.Coherent) (fun q s hq hs => ?_) p (by decide) hs
  by_cases hpeak : q = .csPeak
  · subst hpeak
    exact csPeak_coherent hs
  · exact (handle_machineMove c txok rxok hq hpeak s).coherent hs

theorem serve_sound (c : Cfg) (txok rxok : Bool) (p : BitVec 9) {s : State}
    (hs : s.MachinesSound) : (s.serve c txok rxok p eventSources).MachinesSound := by
  refine serve_keeps (P := State.MachinesSound) (fun q s hq hs => ?_) p (by decide) hs
  by_cases hpeak : q = .csPeak
  · subst hpeak
    exact csPeak_sound hs
  · exact (handle_machineMove c txok rxok hq hpeak s).sound hs

/-! ### PROCESS -/

theorem deliverConfirm_machineMove (c : Cfg) (s : State) : MachineMove s (s.deliverConfirm c) := by
  have move := deliverConfirm_txMove c s
  obtain ⟨imp, host, tx, e⟩ := deliverConfirm_change c s
  rw [e] at move ⊢
  exact ⟨move, .refl _, id⟩

theorem rxDeferred_machineMove (c : Cfg) (s : State) : MachineMove s (s.rxDeferred c) := by
  have move := rxDeferred_rxMove c s
  obtain ⟨rx, stats, lqi, host, e⟩ := rxDeferred_change c s
  rw [e] at move ⊢
  exact ⟨.refl _, move, id⟩

/-- Stages 1 and 2 start nothing. -/
theorem deferredWork_machineMove (c : Cfg) (s : State) :
    MachineMove s ((s.deliverConfirm c).rxDeferred c) :=
  (deliverConfirm_machineMove c s).trans (rxDeferred_machineMove c _)

theorem noiseTrigger_coherent {s : State} (hs : s.Coherent) : s.noiseTrigger.Coherent := by
  unfold State.noiseTrigger
  split
  · next h =>
    obtain ⟨-, txIdle, rxIdle, -⟩ := h
    have idle := s.txIdle_iff.mp txIdle
    have quiet : s.tx.step.busy ≠ true := by rw [idle.1]; decide
    exact ⟨hs.txOwned, hs.rxOwned, fun busy => absurd busy quiet, fun _ => ⟨idle, rxIdle⟩⟩
  · exact hs

theorem noiseTrigger_sound {s : State} (hs : s.MachinesSound) : s.noiseTrigger.MachinesSound := by
  obtain ⟨noise, due, fe, e⟩ := noiseTrigger_change s
  rw [e]
  exact hs

theorem processStages_coherent (c : Cfg) {s : State} (hs : s.Coherent) :
    (s.processStages c).Coherent := by
  unfold State.processStages
  obtain e | ⟨stats, host, e⟩ :=
    watchdogs_cases c ((s.deliverConfirm c).rxDeferred c).noiseTrigger <;> rw [e]
  · exact noiseTrigger_coherent ((deferredWork_machineMove c s).coherent hs)
  · exact .reset

theorem processStages_sound (c : Cfg) {s : State} (hs : s.MachinesSound) :
    (s.processStages c).MachinesSound := by
  unfold State.processStages
  obtain e | ⟨stats, host, e⟩ :=
    watchdogs_cases c ((s.deliverConfirm c).rxDeferred c).noiseTrigger <;> rw [e]
  · exact noiseTrigger_sound ((deferredWork_machineMove c s).sound hs)
  · exact ⟨TxMachine.reset_sound, RxMachine.reset_sound⟩

/-! ### Words -/

theorem acceptFrame_coherent (c : Cfg) (q : TxRequest) {s : State} (hs : s.Coherent)
    (rxIdle : s.rx.step = .idle) : (s.acceptFrame c q).Coherent := by
  have noise : (s.acceptFrame c q).noise.step = .idle := abortCapture_noise s
  have rx : (s.acceptFrame c q).rx = s.rx := by
    obtain ⟨noise, fe, e⟩ := acceptFrame_eq c q s
    rw [e]
  unfold State.Coherent
  rw [acceptFrame_tx, noise, rx]
  exact ⟨⟨by simp, nofun⟩, hs.rxOwned, fun _ => ⟨rxIdle, rfl⟩, fun h => absurd rfl h⟩

theorem exec_coherent {i : Instr} {s t : State} (h : exec i s = .next t) (hs : s.Coherent) :
    t.Coherent := by
  cases exec_effect h with
  | init | linkError => exact .reset
  | accept q _ rxIdle => exact acceptFrame_coherent Config.cfg q hs rxIdle
  | setting write => cases write <;> exact hs
  | process => exact processStages_coherent Config.cfg hs
  | cancel _ pre =>
    exact ((cancelFrame_change s).machineMove (cancelFrame_txMove pre)).coherent hs
  | events src txok rxok =>
    exact serve_coherent Config.cfg txok rxok (s.irqPending ||| src) (s := s.setResult .success) hs
  | _ => exact hs

theorem exec_machinesSound {i : Instr} {s t : State} (h : exec i s = .next t)
    (hs : s.MachinesSound) : t.MachinesSound := by
  cases exec_effect h with
  | init | linkError => exact ⟨TxMachine.reset_sound, RxMachine.reset_sound⟩
  | accept q _ _ txIdle =>
    refine ⟨acceptFrame_tx_sound Config.cfg q txIdle, ?_⟩
    obtain ⟨noise, fe, e⟩ := acceptFrame_eq Config.cfg q s
    rw [e]
    exact hs.2
  | setting write => cases write <;> exact hs
  | process => exact processStages_sound Config.cfg hs
  | cancel _ pre =>
    exact ((cancelFrame_change s).machineMove (cancelFrame_txMove pre)).sound hs
  | events src txok rxok =>
    exact serve_sound Config.cfg txok rxok (s.irqPending ||| src) (s := s.setResult .success) hs
  | _ => exact hs

theorem processStages_irqPending (c : Cfg) {s : State} (hs : s.irqPending = 0#9) :
    (s.processStages c).irqPending = 0#9 := by
  obtain ⟨tx, rx, noise, stats, lqi, due, host, fe, e⟩ := processStages_eq c s
  rw [e]
  obtain e' | ⟨stats', host', e'⟩ := watchdogs_cases c _ <;> rw [e']
  exact hs

/-- No word leaves an interrupt pending (R61 (f)). -/
theorem exec_irqPending {i : Instr} {s t : State} (h : exec i s = .next t)
    (hs : s.irqPending = 0#9) : t.irqPending = 0#9 := by
  cases exec_effect h with
  | accept q =>
    obtain ⟨noise, fe, e⟩ := acceptFrame_eq Config.cfg q s
    rw [e]
    exact hs
  | setting write => cases write <;> exact hs
  | process => exact processStages_irqPending Config.cfg hs
  | init | drop | linkError | events => rfl
  | _ => exact hs

/-- Before INIT no word moves a machine. -/
theorem exec_machines_of_uninitialised {i : Instr} {s t : State} (h : exec i s = .next t)
    (hs : s.glob.initialised = false) (ht : t.glob.initialised = false) :
    t.tx = s.tx ∧ t.rx = s.rx ∧ t.noise = s.noise := by
  cases exec_effect h with
  | init => cases ht
  | accept _ init | process _ init | cancel init | linkError _ _ _ init | events _ _ _ init =>
    cases hs.symm.trans init
  | setting write => cases write <;> exact ⟨rfl, rfl, rfl⟩
  | _ => exact ⟨rfl, rfl, rfl⟩

/-! ## Every step keeps the invariants -/

/-- R61, clause by clause. -/
theorem consistent_iff (s : State) :
    s.Consistent ↔ s.Coherent ∧ s.irqPending = 0#9 ∧
      (s.glob.initialised = false →
        s.tx.step = .idle ∧ s.rx.step = .idle ∧ s.noise.step = .idle) := by
  constructor
  · rintro ⟨a, b, c, d, e, f, g⟩
    refine ⟨⟨⟨a, c⟩, b, d, fun h => ?_⟩, f, g⟩
    obtain ⟨txIdle, rxIdle⟩ := e h
    exact ⟨s.txIdle_iff.mp txIdle, rxIdle⟩
  · rintro ⟨⟨⟨a, c⟩, b, d, e⟩, f, g⟩
    refine ⟨a, b, c, d, fun h => ?_, f, g⟩
    obtain ⟨txIdle, rxIdle⟩ := e h
    exact ⟨s.txIdle_iff.mpr txIdle, rxIdle⟩

theorem exec_consistent {i : Instr} {s t : State} (hs : s.Consistent) (h : exec i s = .next t) :
    t.Consistent := by
  obtain ⟨coherent, pending, asleep⟩ := (consistent_iff s).mp hs
  refine (consistent_iff t).mpr
    ⟨exec_coherent h coherent, exec_irqPending h pending, fun ht => ?_⟩
  have before : s.glob.initialised = false := by
    obtain ⟨-, e⟩ | ⟨-, e⟩ := (exec_globals h).band_writers
    · exact e.symm.trans ht
    · cases e.symm.trans ht
  obtain ⟨htx, hrx, hnoise⟩ := exec_machines_of_uninitialised h before ht
  rw [htx, hrx, hnoise]
  exact asleep before

/-- Settles O14: R61 reads neither the window nor what waits, and every word keeps it. -/
theorem consistencyKept : Obligations.ConsistencyKept := by
  unfold Obligations.ConsistencyKept
  intro s t hs h
  exact step_keeps (fun _ _ _ _ _ hs => hs) (fun _ _ _ => exec_consistent) hs h

theorem exec_notchInBand {i : Instr} {s t : State} (h : exec i s = .next t)
    (hs : s.NotchInBand) : t.NotchInBand := by
  have glob := exec_globals h
  unfold State.NotchInBand at hs ⊢
  generalize t.glob = g at glob
  have masked : ∀ m f : Mask, m &&& f &&& f = m &&& f := fun m f => by
    rw [BitVec.and_assoc, BitVec.and_self]
  cases glob with
  | init | watchdog | linkError => exact fun _ => masked ..
  | staticNotch k m inBand => exact inBand
  | _ => exact hs

theorem exec_intervalNonzero {i : Instr} {s t : State} (h : exec i s = .next t)
    (hs : s.IntervalNonzero) : t.IntervalNonzero := by
  have glob := exec_globals h
  unfold State.IntervalNonzero at hs ⊢
  generalize t.glob = g at glob
  cases glob with
  | noiseInterval v nonzero => exact nonzero
  | _ => exact hs

/-- The field invariants, those of the machines put together. -/
theorem fieldInvariants_iff (s : State) :
    (s.TxTracksSymbol ∧ s.SubNamesChunk ∧ s.NotchInBand ∧ s.IntervalNonzero ∧ s.SlotEmptyOnAir ∧
        s.BuffersBounded ∧ s.BlockNumbered) ↔
      s.MachinesSound ∧ s.NotchInBand ∧ s.IntervalNonzero := by
  constructor
  · rintro ⟨tracks, sub, notch, interval, slot, bounded, numbered⟩
    refine ⟨⟨⟨tracks, slot⟩, sub, fun r hr => ?_, fun r hr => ?_⟩, notch, interval⟩
    · obtain ⟨buf, bufRest, bytes⟩ := bounded r hr
      exact ⟨buf, bufRest, bytes⟩
    · obtain ⟨ack, blk⟩ := numbered r hr
      exact ⟨ack, blk⟩
  · rintro ⟨⟨⟨tracks, slot⟩, sub, bounded, numbered⟩, notch, interval⟩
    exact ⟨tracks, sub, notch, interval, slot,
      fun r hr => ⟨(bounded r hr).buf, (bounded r hr).bufRest, (bounded r hr).bytes⟩,
      fun r hr => ⟨(numbered r hr).ack, (numbered r hr).blk⟩⟩

/-- Settles O15: the invariants of the machines and of the globals, each kept by every word. -/
theorem fieldInvariantsKept : Obligations.FieldInvariantsKept := by
  unfold Obligations.FieldInvariantsKept
  intro s t hs h
  rw [fieldInvariants_iff] at hs ⊢
  refine step_keeps (P := fun s => s.MachinesSound ∧ s.NotchInBand ∧ s.IntervalNonzero)
    (fun _ _ _ _ _ hs => hs) (fun i s t hs h => ?_) hs h
  obtain ⟨sound, notch, interval⟩ := hs
  exact ⟨exec_machinesSound h sound, exec_notchInBand h notch, exec_intervalNonzero h interval⟩

/-! ## Reset -/

/-- GINIT fits the 8 bits of the gain (Table 00-1). -/
theorem ginit_toNat (i : ImpState) :
    (BitVec.ofNat 8 (Config.cfg.ginit i)).toNat = Config.cfg.ginit i := by
  obtain ⟨-, le, bound⟩ := Config.cfg_gain i
  rw [BitVec.toNat_ofNat, Nat.mod_eq_of_lt (by omega)]

theorem reset_gainInBounds : State.reset.GainInBounds Config.cfg := by
  obtain ⟨low, high, -⟩ := Config.cfg_gain .high
  change Config.cfg.gmin .high ≤ (BitVec.ofNat 8 (Config.cfg.ginit .high)).toNat ∧
    (BitVec.ofNat 8 (Config.cfg.ginit .high)).toNat ≤ Config.cfg.gmax .high
  rw [ginit_toNat]
  exact ⟨low, high⟩

theorem reset_consistent : State.reset.Consistent :=
  (consistent_iff _).mpr ⟨.reset, rfl, fun _ => ⟨rfl, rfl, rfl⟩⟩

/-- Settles O13: the machines are idle, the notch and the memory empty, and the gain is GINIT. -/
theorem resetMeetsInvariants : Obligations.ResetMeetsInvariants := by
  unfold Obligations.ResetMeetsInvariants
  obtain ⟨tracks, sub, notch, interval, slot, bounded, numbered⟩ :=
    (fieldInvariants_iff State.reset).mpr
      ⟨⟨TxMachine.reset_sound, RxMachine.reset_sound⟩, nofun, by decide⟩
  exact ⟨reset_consistent, tracks, sub, notch, interval, slot, bounded, numbered,
    reset_gainInBounds, ⟨.nil, nofun⟩, nofun⟩

/-! ## A payload chunk -/

/-- RX_BUF in a payload state is a chunk of its block (R317). -/
theorem rxBuf_of_payload (c : Cfg) {s : State} {r : RxControl}
    (hstep : s.rx.step = .payloadFirst ∨ s.rx.step = .payloadDemod) (hctl : s.rx.ctl = some r) :
    s.rxBuf c true = s.rxChunk c r := by
  obtain h | h := hstep <;> simp [State.rxBuf, State.rxBuffer, RxStep.receiving, h, hctl]

section

variable (c : Cfg) {r : RxControl} (s : State)

theorem rxChunk_of_more (h : r.rem - r.chunk ≠ 0) :
    s.rxChunk c r = s.nextChunk c (r.takeChunk s.rxChunkBytes) := if_neg h

theorem rxChunk_of_end (h : r.rem - r.chunk = 0) :
    s.rxChunk c r = s.endBlock c { r.appendBlock r.blk s.rxChunkBytes with rem := 0 } := by
  rw [← h]
  exact if_pos h

/-- The record with the metrics of the end of a block (R318). -/
def RxControl.withMetrics (r : RxControl) (w : Window) : RxControl :=
  { r with evmPay := w.feEvmPay, rssi := w.feRssi, lqi := w.feLqi }

theorem endBlock_of_more (h : r.blk = 0 ∧ r.nblk = 2) :
    s.endBlock c r = s.startBlock c (r.withMetrics s.win) 1 := if_pos h

theorem endBlock_of_last (h : ¬(r.blk = 0 ∧ r.nblk = 2)) :
    s.endBlock c r = (s.rxEnter .waitReedSolomon { r.withMetrics s.win with
      dur := s.glob.timeMs - r.rxTime }).emitFe .rxDone := if_neg h

end

/-- The word RX_BUF in a payload state of an initialised block. -/
theorem exec_rxBuf_of_payload {s : State} {r : RxControl} (txok : Bool)
    (hinit : s.glob.initialised = true) (hpend : s.irqPending = 0#9)
    (hstep : s.rx.step = .payloadFirst ∨ s.rx.step = .payloadDemod) (hctl : s.rx.ctl = some r) :
    exec (.evIrq 0x020#9 txok true) s = .next ((s.withResult 0#32).rxChunk Config.cfg r) := by
  have word := irqWord_single Config.cfg txok true .rxBuf hinit hpend
  rw [show State.handle Config.cfg txok true .rxBuf (s.withResult 0#32) =
    (s.withResult 0#32).rxBuf Config.cfg true from rfl,
    rxBuf_of_payload Config.cfg (s := s.withResult 0#32) hstep hctl] at word
  rw [exec_evIrq, ← word]
  rfl

/-- Settles O47: the chunk is taken, and the symbols left and the block number decide what comes. -/
theorem rxPayloadChunk : Obligations.RxPayloadChunk := by
  unfold Obligations.RxPayloadChunk
  intro s r txok hinit hpend hstep hctl B chunk rem n result bytes buf bufRest
  have run : result = .next ((s.withResult 0#32).rxChunk Config.cfg r) :=
    exec_rxBuf_of_payload txok hinit hpend hstep hctl
  refine ⟨fun hb ho => ?bytes, fun hmore => ?next, fun hend hblk htwo => ?block,
    fun hend hlast => ?last⟩
  case bytes =>
    obtain ⟨read, bounded, -⟩ := setBlockBytes_spec r r.blk bytes hb ho
    exact ⟨read, bounded⟩
  case next =>
    rw [run, rxChunk_of_more Config.cfg _ hmore]
    rfl
  case block =>
    rw [run, (rxChunk_of_end Config.cfg _ hend).trans (endBlock_of_more _ _ ⟨hblk, htwo⟩)]
    rfl
  case last =>
    rw [run, (rxChunk_of_end Config.cfg _ hend).trans (endBlock_of_last _ _ hlast)]
    rfl

end Sys2Proof.Machine
end

section
/-! PROOF. The register window as the agents see it (20_memory.md): which accesses are let through,
what an access with and without the right does, and what a store leaves for a later load. -/

namespace Sys2Proof.Machine

/-! ## Where an address lies (Table 20-1) -/

/-- An address without a row among the registers (R89). -/
theorem registerAt_of_no_row {a : Nat} (h : a = 0x01C ∨ 0x038 ≤ a) :
    registerAt a = .reserved := by
  unfold registerAt
  split
  case h_14 => rfl
  all_goals omega

theorem regionOf_of_register {a : Nat} (h : a < 0x100) : regionOf a = registerAt a := if_pos h

theorem regionOf_of_txbuf {a : Nat} (low : 0x100 ≤ a) (high : a < 0x300) :
    regionOf a = .txbuf := by
  rw [regionOf, if_neg (by omega), if_pos high]

theorem regionOf_of_rxcap {a : Nat} (low : 0x300 ≤ a) (high : a < 0x500) :
    regionOf a = .rxcap := by
  rw [regionOf, if_neg (by omega), if_neg (by omega), if_pos high]

theorem regionOf_of_capmem {a : Nat} (low : 0x500 ≤ a) (high : a < 0x700) :
    regionOf a = .capmem := by
  rw [regionOf, if_neg (by omega), if_neg (by omega), if_neg (by omega), if_pos high]

/-- Past the buffers every address is reserved (R81, R89; log 10). -/
theorem regionOf_of_past {a : Nat} (h : 0x700 ≤ a) : regionOf a = .reserved := by
  rw [regionOf, if_neg (by omega), if_neg (by omega), if_neg (by omega), if_neg (by omega)]

/-- The addresses from RXCAP to the end of CAPMEM. -/
theorem regionOf_of_capture {a : Nat} (low : 0x300 ≤ a) (high : a < 0x700) :
    regionOf a = .rxcap ∨ regionOf a = .capmem := by
  obtain h | h := Nat.lt_or_ge a 0x500
  · exact .inl (regionOf_of_rxcap low h)
  · exact .inr (regionOf_of_capmem h high)

/-- The addresses of the three buffers. -/
theorem regionOf_of_buffer {a : Nat} (low : 0x100 ≤ a) (high : a < 0x700) :
    regionOf a = .txbuf ∨ regionOf a = .rxcap ∨ regionOf a = .capmem := by
  obtain h | h := Nat.lt_or_ge a 0x300
  · exact .inl (regionOf_of_txbuf low h)
  · exact .inr (regionOf_of_capture h high)

theorem regionOf_of_reserved {a : Nat}
    (h : a = 0x01C ∨ (0x038 ≤ a ∧ a ≤ 0x0FF) ∨ 0x700 ≤ a) : regionOf a = .reserved := by
  obtain h | h := Nat.lt_or_ge a 0x100
  · rw [regionOf_of_register h, registerAt_of_no_row (by omega)]
  · exact regionOf_of_past (by omega)

theorem eq_of_registerAt_cmd {a : Nat} (h : registerAt a = .cmd) : a = 0x000 := by
  unfold registerAt at h
  split at h
  case h_1 => rfl
  all_goals cases h

theorem eq_of_registerAt_evt {a : Nat} (h : registerAt a = .evt) : a = 0x00C := by
  unfold registerAt at h
  split at h
  case h_4 => rfl
  all_goals cases h

/-- Only CMD and EVT take words; every other address takes data (R88, R110). -/
theorem portAt_eq_none {a : Nat} (cmd : a ≠ 0x000) (evt : a ≠ 0x00C) : portAt a = none := by
  unfold portAt
  split
  case h_1 row => exact absurd (eq_of_registerAt_cmd row) cmd
  case h_2 row => exact absurd (eq_of_registerAt_evt row) evt
  all_goals rfl

theorem portAt_of_past_registers {a : Nat} (h : 0x100 ≤ a) : portAt a = none :=
  portAt_eq_none (by omega) (by omega)

/-! ## Widths and alignment (R85, R86) -/

theorem accessStop_of_register {a : Nat} (n : Width) (h : a < 0x100) :
    accessStop a n = if n = .b4 ∧ a % 4 = 0 then none else some .registerAccess := if_pos h

theorem accessStop_of_byte_buffer {a : Nat} (n : Width) (low : 0x100 ≤ a) (high : a < 0x500) :
    accessStop a n = if a % n.bytes = 0 then none else some .bufferAccess := by
  rw [accessStop, if_neg (by omega), if_pos high]

theorem accessStop_of_capmem {a : Nat} (n : Width) (low : 0x500 ≤ a) (high : a < 0x700) :
    accessStop a n = if n = .b4 ∧ a % 4 = 0 then none else some .bufferAccess := by
  rw [accessStop, if_neg (by omega), if_neg (by omega), if_pos high]

theorem accessStop_of_past {a : Nat} (n : Width) (h : 0x700 ≤ a) : accessStop a n = none := by
  rw [accessStop, if_neg (by omega), if_neg (by omega), if_neg (by omega)]

/-- The accesses that are let through, range by range. -/
def AccessFits (a : Nat) (n : Width) : Prop :=
  (a < 0x100 ∧ n = .b4 ∧ a % 4 = 0) ∨ (0x100 ≤ a ∧ a < 0x500 ∧ a % n.bytes = 0) ∨
    (0x500 ≤ a ∧ a < 0x700 ∧ n = .b4 ∧ a % 4 = 0) ∨ 0x700 ≤ a

theorem accessStop_of_fits {a : Nat} {n : Width} (h : AccessFits a n) : accessStop a n = none := by
  obtain ⟨high, fits⟩ | ⟨low, high, aligned⟩ | ⟨low, high, fits⟩ | past := h
  · rw [accessStop_of_register n high, if_pos fits]
  · rw [accessStop_of_byte_buffer n low high, if_pos aligned]
  · rw [accessStop_of_capmem n low high, if_pos fits]
  · exact accessStop_of_past n past

/-- A naturally aligned access stays within one 32-bit word. -/
theorem last_byte_in_word {a : Nat} {n : Width} (h : a % n.bytes = 0) :
    (a + (n.bytes - 1)) / 4 = a / 4 := by
  cases n <;> simp only [Width.bytes] at h ⊢ <;> omega

/-- Past the registers every entry of Table 20-1 is made of whole 32-bit words. -/
theorem regionOf_eq_of_same_word {a b : Nat} (ha : 0x100 ≤ a) (h : b / 4 = a / 4) :
    regionOf b = regionOf a := by
  have same : ∀ k, b < 4 * k ↔ a < 4 * k := fun k => by omega
  simp only [regionOf, same 0x40, same 0xC0, same 0x140, same 0x1C0,
    if_neg (show ¬a < 4 * 0x40 by omega)]

/-- No access that is let through reaches into another entry. -/
theorem regionOf_last_byte {a : Nat} {n : Width} (low : 0x100 ≤ a) (h : AccessFits a n) :
    regionOf (a + (n.bytes - 1)) = regionOf a := by
  obtain ⟨high, -⟩ | ⟨-, -, aligned⟩ | ⟨-, -, rfl, aligned⟩ | past := h
  · omega
  · exact regionOf_eq_of_same_word low (last_byte_in_word aligned)
  · exact regionOf_eq_of_same_word low (last_byte_in_word aligned)
  · rw [regionOf_of_past (by omega), regionOf_of_past past]

/-! ## What the block does with an access (R82, R88) -/

section

variable {g : Agent} {a : Nat} {n : Width}

theorem receive_read_of_stop {r : Refusal} (s : State) (stop : accessStop a n = some r) :
    receive (.read g a n) s = .refused r := by
  simp only [receive, stop]

theorem receive_write_of_stop {r : Refusal} (v : Word) (s : State)
    (stop : accessStop a n = some r) : receive (.write g a n v) s = .refused r := by
  simp only [receive, stop]

theorem receive_read_of_allowed (s : State) (allowed : accessStop a n = none) :
    receive (.read g a n) s = .next { s with readData := s.readValue g a n } := by
  simp only [receive, allowed, memRead]

theorem receive_write_of_allowed (v : Word) (s : State) (allowed : accessStop a n = none) :
    receive (.write g a n v) s = memWrite g a n v s := by
  simp only [receive, allowed]

theorem receive_read_of_right (s : State) (allowed : accessStop a n = none)
    (right : canRead g (regionOf a) = true) :
    receive (.read g a n) s = .next { s with readData := s.windowValue a n } := by
  rw [receive_read_of_allowed s allowed, State.readValue, if_pos right]

theorem receive_read_of_no_right (s : State) (allowed : accessStop a n = none)
    (noRight : canRead g (regionOf a) = false) :
    receive (.read g a n) s = .next { s with readData := 0#32 } := by
  rw [receive_read_of_allowed s allowed, State.readValue, if_neg (by simp [noRight])]

theorem receive_write_of_no_right (v : Word) (s : State) (allowed : accessStop a n = none)
    (noRight : canWrite g (regionOf a) = false) : receive (.write g a n v) s = .next s := by
  rw [receive_write_of_allowed v s allowed, memWrite, if_neg (by simp [noRight])]

/-- A write with the right to an address that takes no words stores data. -/
theorem receive_write_of_data (v : Word) (s : State) (allowed : accessStop a n = none)
    (right : canWrite g (regionOf a) = true) (data : portAt a = none) :
    receive (.write g a n v) s = .next (s.storeData a n v) := by
  simp only [receive_write_of_allowed v s allowed, memWrite, if_pos right, data]

/-- A write that is let through is never refused later on: it is ignored, stored, or a word. -/
theorem receive_write_next (v : Word) (s : State) (allowed : accessStop a n = none) :
    ∃ t, receive (.write g a n v) s = .next t := by
  rw [receive_write_of_allowed v s allowed]
  unfold memWrite
  split
  · split
    · exact processWordOn_next ..
    · exact ⟨_, rfl⟩
  · exact ⟨_, rfl⟩

theorem receive_read_cases {s t : State} (h : receive (.read g a n) s = .next t) :
    t = { s with readData := s.readValue g a n } := by
  cases stop : accessStop a n with
  | some r => rw [receive_read_of_stop s stop] at h; cases h
  | none => rw [receive_read_of_allowed s stop] at h; cases h; rfl

/-- A write to an address that takes no words is ignored or stores data. -/
theorem receive_data_write_cases {v : Word} {s t : State} (data : portAt a = none)
    (h : receive (.write g a n v) s = .next t) : t = s ∨ t = s.storeData a n v := by
  cases stop : accessStop a n with
  | some r => rw [receive_write_of_stop v s stop] at h; cases h
  | none =>
    cases right : canWrite g (regionOf a) with
    | false => rw [receive_write_of_no_right v s stop right] at h; cases h; exact .inl rfl
    | true => rw [receive_write_of_data v s stop right data] at h; cases h; exact .inr rfl

end

/-- A data write never touches RESULT (R82, R88). -/
@[simp] theorem storeData_result (s : State) (a : Nat) (n : Width) (v : Word) :
    (s.storeData a n v).win.result = s.win.result := by
  unfold State.storeData
  split <;> rfl

/-! ## Rights and reserved addresses -/

/-- Nobody has a right to a reserved address (R89). -/
theorem no_right_of_reserved (g : Agent) :
    canRead g .reserved = false ∧ canWrite g .reserved = false := by
  cases g <;> exact ⟨rfl, rfl⟩

/-- Settles O6: every one of these accesses is let through, and its agent lacks the right. -/
theorem rightsViolations : Obligations.RightsViolations := by
  unfold Obligations.RightsViolations
  refine ⟨fun s v a ha => ?hostRegister, fun s v a n low high allowed => ?hostBuffer,
    fun s v a ha => ?frontEndRegister, fun s v a n low high allowed => ?frontEndBuffer,
    fun s a ha => ?hostRead, fun s a ha => ?frontEndRead⟩
  case hostRegister =>
    have denied : ∀ a ∈ [0x004, 0x00C, 0x020, 0x024, 0x028, 0x02C, 0x030, 0x034],
        accessStop a .b4 = none ∧ canWrite .host (regionOf a) = false := by decide
    obtain ⟨allowed, noRight⟩ := denied a ha
    exact receive_write_of_no_right v s allowed noRight
  case hostBuffer =>
    refine receive_write_of_no_right v s allowed ?_
    obtain h | h := regionOf_of_capture low high <;> rw [h] <;> rfl
  case frontEndRegister =>
    have denied : ∀ a ∈ [0x000, 0x004, 0x008, 0x010, 0x014, 0x018],
        accessStop a .b4 = none ∧ canWrite .frontEnd (regionOf a) = false := by decide
    obtain ⟨allowed, noRight⟩ := denied a ha
    exact receive_write_of_no_right v s allowed noRight
  case frontEndBuffer =>
    refine receive_write_of_no_right v s allowed ?_
    rw [regionOf_of_txbuf low high]
    rfl
  case hostRead =>
    have denied : ∀ a ∈ [0x000, 0x00C],
        accessStop a .b4 = none ∧ canRead .host (regionOf a) = false := by decide
    obtain ⟨allowed, noRight⟩ := denied a ha
    exact receive_read_of_no_right s allowed noRight
  case frontEndRead =>
    have denied : ∀ a ∈ [0x000, 0x008, 0x00C, 0x010, 0x014, 0x018],
        accessStop a .b4 = none ∧ canRead .frontEnd (regionOf a) = false := by decide
    obtain ⟨allowed, noRight⟩ := denied a ha
    exact receive_read_of_no_right s allowed noRight

/-- Settles O7: nobody has a right to a reserved address. -/
theorem reservedAddresses : Obligations.ReservedAddresses := by
  unfold Obligations.ReservedAddresses
  intro g a n v s reserved allowed
  obtain ⟨noRead, noWrite⟩ := no_right_of_reserved g
  rw [← regionOf_of_reserved reserved] at noRead noWrite
  exact ⟨receive_read_of_no_right s allowed noRead, receive_write_of_no_right v s allowed noWrite⟩

/-- Settles O8: an access that fits its range is let through and stays in its entry, any other is
refused by the rule of its range. -/
theorem accessWidthAndAlignment : Obligations.AccessWidthAndAlignment := by
  unfold Obligations.AccessWidthAndAlignment
  intro g a n v s
  have refused : ∀ {r : Refusal}, accessStop a n = some r →
      receive (.read g a n) s = .refused r ∧ receive (.write g a n v) s = .refused r :=
    fun stop => ⟨receive_read_of_stop s stop, receive_write_of_stop v s stop⟩
  refine ⟨fun high misfit => refused ?register, fun low high misaligned => refused ?byteBuffer,
    fun low high misfit => refused ?capmem, fun fits => ?allowed⟩
  case register => rw [accessStop_of_register n high, if_neg misfit]
  case byteBuffer => rw [accessStop_of_byte_buffer n low high, if_neg misaligned]
  case capmem => rw [accessStop_of_capmem n low high, if_neg misfit]
  case allowed =>
    have allowed : accessStop a n = none := accessStop_of_fits fits
    exact ⟨⟨_, receive_read_of_allowed s allowed⟩, receive_write_next v s allowed,
      fun low => regionOf_last_byte low fits⟩

/-- Settles O9: a write that is no word is ignored or stores data, which the window's frame
bounds. -/
theorem accessEffects : Obligations.AccessEffects := by
  unfold Obligations.AccessEffects
  refine ⟨fun g a n s t h => ?read, fun g a n v s t cmd evt h => ?write⟩
  case read =>
    rw [receive_read_cases h]
  case write =>
    obtain rfl | rfl := receive_data_write_cases (portAt_eq_none cmd evt) h
    · exact ⟨rfl, rfl⟩
    · obtain ⟨win, mem, frame⟩ := storeData_frame s a n v
      exact ⟨by rw [frame], storeData_result s a n v⟩

/-! ## A store and a later load -/

/-- Cutting a word to `k` bits and widening it again clears the bits above (R88). -/
theorem setWidth_setWidth_eq_and (v : Word) (k : Nat) :
    (v.setWidth k).setWidth 32 = v &&& BitVec.ofNat 32 (2 ^ k - 1) := by
  refine BitVec.eq_of_getLsbD_eq fun j hj => ?_
  rw [BitVec.getLsbD_setWidth, BitVec.getLsbD_setWidth, BitVec.getLsbD_and, BitVec.getLsbD_ofNat,
    Nat.testBit_two_pow_sub_one]
  simp only [hj, decide_true, Bool.true_and, Bool.and_comm]

/-- A register of `k` bits, read as a word, is the value written with the bits above cleared. -/
theorem setWidth_extractLsb'_eq_and (v : Word) {k : Nat} (hk : k ≤ 32) :
    (v.extractLsb' 0 k).setWidth 32 = v &&& BitVec.ofNat 32 (2 ^ k - 1) := by
  rw [← BitVec.setWidth_eq_extractLsb' hk, setWidth_setWidth_eq_and]

/-- The bytes of a word, assembled again, are its low bytes (R83). -/
theorem wordOfBytes_bytesOfWord {n : Nat} (v : Word) :
    wordOfBytes (bytesOfWord n v) = (v.setWidth (8 * n)).setWidth 32 := by
  refine BitVec.eq_of_getLsbD_eq fun j hj => ?_
  rw [wordOfBytes_getLsbD _ hj, List.getD_eq_getElem?_getD]
  obtain inside | past := Nat.lt_or_ge j (8 * n)
  · have hi : j / 8 < (bytesOfWord n v).length := by rw [length_bytesOfWord]; omega
    rw [List.getElem?_eq_getElem hi, Option.getD_some, getElem_bytesOfWord]
    simp [hj, inside, Nat.mod_lt, Nat.div_add_mod]
  · have hi : (bytesOfWord n v).length ≤ j / 8 := by rw [length_bytesOfWord]; omega
    rw [List.getElem?_eq_none hi]
    simp [Nat.not_lt.mpr past]

section

variable {a : Nat} (low : 0x100 ≤ a) (high : a < 0x700) (n : Width) (s : State)

include low high

theorem storeData_of_buffer (v : Word) :
    s.storeData a n v = { s with mem := s.mem.writeBytes a (bytesOfWord n.bytes v) } := by
  obtain h | h | h := regionOf_of_buffer low high <;> simp only [State.storeData, h] <;> rfl

theorem windowValue_of_buffer : s.windowValue a n = wordOfBytes (s.mem.readBytes a n.bytes) := by
  obtain h | h | h := regionOf_of_buffer low high <;> simp only [State.windowValue, h]

end

/-- Bytes just stored are the bytes a load of the same place finds. -/
theorem Memory.readBytes_writeBytes {m : Memory} (hm : m.wf) (a : Nat) (bs : List Byte) :
    (m.writeBytes a bs).readBytes a bs.length = bs := by
  refine List.ext_getElem (by simp [Memory.readBytes]) fun i hi hbs => ?_
  simp [Memory.readBytes, Memory.read_writeBytes hm hbs]

/-- Settles O11: the bytes stored are the value's low bytes, and a load of them assembles those. -/
theorem bufferStoreThenLoad : Obligations.BufferStoreThenLoad := by
  unfold Obligations.BufferStoreThenLoad
  intro g h a n v s inForm low high allowed write read
  obtain ⟨wf, -⟩ := inForm
  have len : (bytesOfWord n.bytes v).length = n.bytes := length_bytesOfWord ..
  refine ⟨s.mem.writeBytes a (bytesOfWord n.bytes v), ?store, fun x hx => ?outside,
    fun i hi => ?inside, ?load⟩
  case store =>
    rw [receive_write_of_data v s allowed write (portAt_of_past_registers low),
      storeData_of_buffer low high]
  case outside => exact Memory.read_writeBytes_of_outside wf (by rwa [len])
  case inside => rw [Memory.read_writeBytes wf (by rwa [len]), getElem_bytesOfWord]
  case load =>
    have back := Memory.readBytes_writeBytes wf a (bytesOfWord n.bytes v)
    rw [len] at back
    rw [receive_read_of_right _ allowed read, windowValue_of_buffer low high, back,
      wordOfBytes_bytesOfWord, setWidth_setWidth_eq_and]
    cases n <;> rfl

/-- A register store by an agent with the right, and a load by any agent with the right. -/
theorem register_store_load {g : Agent} {a : Nat} {v x : Word} {s t : State}
    (allowed : accessStop a .b4 = none) (data : portAt a = none)
    (write : canWrite g (regionOf a) = true) (store : s.storeData a .b4 v = t)
    (load : t.windowValue a .b4 = x) :
    receive (.write g a .b4 v) s = .next t ∧
      ∀ h, canRead h (regionOf a) = true →
        receive (.read h a .b4) t = .next { t with readData := x } := by
  constructor
  · rw [receive_write_of_data v s allowed write data, store]
  · intro h read
    rw [receive_read_of_right t allowed read, load]

/-- The registers that the host writes are read by the host (Table 20-1). -/
theorem hostRegister_store_load {a : Nat} {v x : Word} {s t : State}
    (ha : a ∈ [0x008, 0x010, 0x014, 0x018]) (store : s.storeData a .b4 v = t)
    (load : t.windowValue a .b4 = x) :
    receive (.write .host a .b4 v) s = .next t ∧
      receive (.read .host a .b4) t = .next { t with readData := x } := by
  have rows : ∀ a ∈ [0x008, 0x010, 0x014, 0x018], accessStop a .b4 = none ∧ portAt a = none ∧
      canWrite .host (regionOf a) = true ∧ canRead .host (regionOf a) = true := by decide
  obtain ⟨allowed, data, write, read⟩ := rows a ha
  obtain ⟨stored, loaded⟩ := register_store_load allowed data write store load
  exact ⟨stored, loaded .host read⟩

/-- The registers that the front end writes are read by both agents (Table 20-1). -/
theorem frontEndRegister_store_load {a : Nat} {v x : Word} {s t : State}
    (ha : a ∈ [0x020, 0x024, 0x028, 0x02C, 0x030, 0x034]) (store : s.storeData a .b4 v = t)
    (load : t.windowValue a .b4 = x) :
    receive (.write .frontEnd a .b4 v) s = .next t ∧
      ∀ g, receive (.read g a .b4) t = .next { t with readData := x } := by
  have rows : ∀ a ∈ [0x020, 0x024, 0x028, 0x02C, 0x030, 0x034],
      accessStop a .b4 = none ∧ portAt a = none ∧ canWrite .frontEnd (regionOf a) = true ∧
        canRead .host (regionOf a) = true ∧ canRead .frontEnd (regionOf a) = true := by decide
  obtain ⟨allowed, data, write, hostRead, frontEndRead⟩ := rows a ha
  obtain ⟨stored, loaded⟩ := register_store_load allowed data write store load
  refine ⟨stored, fun g => ?_⟩
  cases g with
  | host => exact loaded .host hostRead
  | frontEnd => exact loaded .frontEnd frontEndRead

/-- RESULT is read by both agents. -/
theorem receive_read_result (g : Agent) (s : State) :
    receive (.read g 0x004 .b4) s = .next { s with readData := s.win.result } :=
  receive_read_of_right s rfl (by cases g <;> rfl)

/-- Settles O10: each register's row gives the rights, and its width what the load finds. -/
theorem registerStoreThenLoad : Obligations.RegisterStoreThenLoad := by
  unfold Obligations.RegisterStoreThenLoad
  intro s v
  refine ⟨fun g => receive_read_result g s, ?paramData, ?txTonemap, ?txPdc, ?txTime, ?feRms,
    ?feEvmHdr, ?feEvmPay, ?feRssi, ?feLqi, ?feRxNbytes⟩
  case paramData | txTime => exact hostRegister_store_load (by decide) rfl rfl
  case txTonemap | txPdc =>
    exact hostRegister_store_load (by decide) rfl (setWidth_extractLsb'_eq_and v (by decide))
  case feRms | feEvmHdr | feEvmPay | feRssi | feLqi =>
    exact frontEndRegister_store_load (by decide) rfl rfl
  case feRxNbytes =>
    exact frontEndRegister_store_load (by decide) rfl (setWidth_extractLsb'_eq_and v (by decide))

end Sys2Proof.Machine
end

section
/-! PROOF. The words of 30_encoding.md: the fields of each instruction's word, which the encoder
writes and the decoder reads, the rows of the opcode table as the decoder's acceptance test, and
what the block does with a word that is or is not an instruction. -/

namespace Sys2Proof

/-! ## Fields of a word -/

/-- A field is a concatenation when its high and its low part are the two pieces. -/
theorem extractLsb'_eq_append_iff {k m n : Nat} (w : BitVec k) (start : Nat) (hi : BitVec m)
    (lo : BitVec n) :
    w.extractLsb' start (m + n) = hi ++ lo ↔
      w.extractLsb' (start + n) m = hi ∧ w.extractLsb' start n = lo := by
  rw [← BitVec.extractLsb'_append_extractLsb'_eq_extractLsb' rfl]
  refine ⟨fun h => ⟨?high, ?low⟩, fun ⟨high, low⟩ => by rw [high, low]⟩
  case high => rw [← BitVec.extractLsb'_append_eq_left (a := hi) (b := lo), ← h,
    BitVec.extractLsb'_append_eq_left]
  case low => rw [← BitVec.extractLsb'_append_eq_right (a := hi) (b := lo), ← h,
    BitVec.extractLsb'_append_eq_right]

theorem extractLsb'_eq_append_append_iff {k l m n : Nat} (w : BitVec k) (start : Nat)
    (hi : BitVec l) (mid : BitVec m) (lo : BitVec n) :
    w.extractLsb' start (l + m + n) = hi ++ mid ++ lo ↔
      w.extractLsb' (start + n + m) l = hi ∧ w.extractLsb' (start + n) m = mid ∧
        w.extractLsb' start n = lo := by
  rw [extractLsb'_eq_append_iff, extractLsb'_eq_append_iff, and_assoc]

/-- A field of one bit is that bit. -/
theorem extractLsb'_one_eq_ofBool_iff {k : Nat} (w : BitVec k) (start : Nat) (b : Bool) :
    w.extractLsb' start 1 = BitVec.ofBool b ↔ w.getLsbD start = b := by
  rw [BitVec.getLsbD_eq_extractLsb']
  generalize w.extractLsb' start 1 = x
  revert x b
  decide

theorem extractLsb'_eq_ofNat {k start len n : Nat} {w : BitVec k}
    (h : (w.extractLsb' start len).toNat = n) : w.extractLsb' start len = BitVec.ofNat len n := by
  rw [← h, BitVec.ofNat_toNat, BitVec.setWidth_eq]

@[simp] theorem Band.code_ofCode (v : BitVec 2) : (Band.ofCode v).code = v := by
  revert v; decide

@[simp] theorem Modulation.code_ofCode (v : BitVec 2) : (Modulation.ofCode v).code = v := by
  revert v; decide

@[simp] theorem Scheme.bit_ofBit (b : Bool) : (Scheme.ofBit b).bit = b := by cases b <;> rfl

@[simp] theorem Delimiter.code_ofCode (v : BitVec 2) : (Delimiter.ofCode v).code = v := by
  revert v; decide

/-! ## The fields of an instruction's word -/

/-- The word holds the opcode and the operands of the instruction at the positions of R112 to R118,
and its reserved bits are 0. -/
def HasFields (w : Word) : Instr → Prop
  | .init b =>
    w.extractLsb' 26 6 = 0x01#6 ∧ w.extractLsb' 2 24 = 0#24 ∧ w.extractLsb' 0 2 = b.code
  | .transmit m s d pwr noadapt imm len =>
    w.extractLsb' 26 6 = 0x02#6 ∧ w.extractLsb' 24 2 = m.code ∧ w.getLsbD 23 = s.bit ∧
      w.extractLsb' 21 2 = d.code ∧ w.extractLsb' 17 4 = pwr ∧ w.getLsbD 16 = noadapt ∧
      w.getLsbD 15 = imm ∧ w.extractLsb' 9 6 = 0#6 ∧ w.extractLsb' 0 9 = len
  | .getParam id =>
    w.extractLsb' 26 6 = 0x03#6 ∧ w.extractLsb' 16 10 = 0#10 ∧ w.extractLsb' 0 16 = id
  | .setParam id =>
    w.extractLsb' 26 6 = 0x04#6 ∧ w.extractLsb' 16 10 = 0#10 ∧ w.extractLsb' 0 16 = id
  | .process => w.extractLsb' 26 6 = 0x05#6 ∧ w.extractLsb' 0 26 = 0#26
  | .cancel => w.extractLsb' 26 6 = 0x06#6 ∧ w.extractLsb' 0 26 = 0#26
  | .evIrq src txok rxok =>
    w.extractLsb' 26 6 = 0x20#6 ∧ w.extractLsb' 18 8 = 0#8 ∧ w.getLsbD 17 = rxok ∧
      w.getLsbD 16 = txok ∧ w.extractLsb' 9 7 = 0#7 ∧ w.extractLsb' 0 9 = src
  | .evTick delta =>
    w.extractLsb' 26 6 = 0x21#6 ∧ w.extractLsb' 16 10 = 0#10 ∧ w.extractLsb' 0 16 = delta

/-- The fields leave no bit of the word open: they are exactly what the encoder writes. The
`change`s keep the widths of the fields apart, which the type of `encode` adds up. -/
theorem encode_eq_iff {i : Instr} {w : Word} : encode i = w ↔ HasFields w i := by
  have whole : encode i = w ↔ w.extractLsb' 0 32 = encode i := by
    rw [BitVec.extractLsb'_eq_self, eq_comm]
  rw [whole]
  cases i with
  | init b => exact extractLsb'_eq_append_append_iff w 0 0x01#6 0#24 b.code
  | transmit m s d pwr noadapt imm len =>
    change w.extractLsb' 0 (6 + 2 + 1 + 2 + 4 + 1 + 1 + 6 + 9) =
      0x02#6 ++ m.code ++ BitVec.ofBool s.bit ++ d.code ++ pwr ++ BitVec.ofBool noadapt ++
        BitVec.ofBool imm ++ 0#6 ++ len ↔ _
    simp only [extractLsb'_eq_append_iff, extractLsb'_one_eq_ofBool_iff, and_assoc]
    rfl
  | getParam id => exact extractLsb'_eq_append_append_iff w 0 0x03#6 0#10 id
  | setParam id => exact extractLsb'_eq_append_append_iff w 0 0x04#6 0#10 id
  | process => exact extractLsb'_eq_append_iff w 0 0x05#6 0#26
  | cancel => exact extractLsb'_eq_append_iff w 0 0x06#6 0#26
  | evIrq src txok rxok =>
    change w.extractLsb' 0 (6 + 8 + 1 + 1 + 7 + 9) =
      0x20#6 ++ 0#8 ++ BitVec.ofBool rxok ++ BitVec.ofBool txok ++ 0#7 ++ src ↔ _
    simp only [extractLsb'_eq_append_iff, extractLsb'_one_eq_ofBool_iff, and_assoc]
    rfl
  | evTick delta => exact extractLsb'_eq_append_append_iff w 0 0x21#6 0#10 delta

/-! ## The decoder reads the fields (R135) -/

theorem acceptIf_eq_instr_iff {n : Nat} {i j : Instr} :
    acceptIf n i = .instr j ↔ n = 0 ∧ i = j := by
  unfold acceptIf
  split <;> simp_all

theorem decodeCmd_eq_instr {w : Word} {i : Instr} (h : decodeCmd w = .instr i) :
    i.port = .cmd ∧ HasFields w i := by
  unfold decodeCmd opcodeOf at h
  split at h
  case h_1 opcode =>
    obtain ⟨reserved, rfl⟩ := acceptIf_eq_instr_iff.mp h
    exact ⟨rfl, extractLsb'_eq_ofNat opcode, extractLsb'_eq_ofNat reserved,
      (Band.code_ofCode _).symm⟩
  case h_2 opcode =>
    obtain ⟨reserved, rfl⟩ := acceptIf_eq_instr_iff.mp h
    exact ⟨rfl, extractLsb'_eq_ofNat opcode, (Modulation.code_ofCode _).symm,
      (Scheme.bit_ofBit _).symm, (Delimiter.code_ofCode _).symm, rfl, rfl, rfl,
      extractLsb'_eq_ofNat reserved, rfl⟩
  case h_3 opcode | h_4 opcode =>
    obtain ⟨reserved, rfl⟩ := acceptIf_eq_instr_iff.mp h
    exact ⟨rfl, extractLsb'_eq_ofNat opcode, extractLsb'_eq_ofNat reserved, rfl⟩
  case h_5 opcode | h_6 opcode =>
    obtain ⟨reserved, rfl⟩ := acceptIf_eq_instr_iff.mp h
    exact ⟨rfl, extractLsb'_eq_ofNat opcode, extractLsb'_eq_ofNat reserved⟩
  all_goals cases h

theorem decodeEvt_eq_instr {w : Word} {i : Instr} (h : decodeEvt w = .instr i) :
    i.port = .evt ∧ HasFields w i := by
  unfold decodeEvt opcodeOf at h
  split at h
  case h_7 opcode =>
    obtain ⟨reserved, rfl⟩ := acceptIf_eq_instr_iff.mp h
    obtain ⟨high, low⟩ := Nat.add_eq_zero_iff.mp reserved
    exact ⟨rfl, extractLsb'_eq_ofNat opcode, extractLsb'_eq_ofNat high, rfl, rfl,
      extractLsb'_eq_ofNat low, rfl⟩
  case h_8 opcode =>
    obtain ⟨reserved, rfl⟩ := acceptIf_eq_instr_iff.mp h
    exact ⟨rfl, extractLsb'_eq_ofNat opcode, extractLsb'_eq_ofNat reserved, rfl⟩
  all_goals cases h

theorem decode_of_hasFields {w : Word} {i : Instr} (h : HasFields w i) :
    decode i.port w = .instr i := by
  cases i with
  | init b =>
    obtain ⟨opcode, reserved, band⟩ := h
    simp [Instr.port, decode, decodeCmd, opcodeOf, acceptIf, opcode, reserved, band]
  | transmit m s d pwr noadapt imm len =>
    obtain ⟨opcode, mod, sch, dt, rfl, rfl, rfl, reserved, rfl⟩ := h
    simp only [Instr.port, decode, decodeCmd, opcodeOf, acceptIf, opcode, reserved, mod, sch, dt,
      Modulation.ofCode_code, Scheme.ofBit_bit, Delimiter.ofCode_code]
    rfl
  | getParam id | setParam id | evTick id =>
    obtain ⟨opcode, reserved, rfl⟩ := h
    simp [Instr.port, decode, decodeCmd, decodeEvt, opcodeOf, acceptIf, opcode, reserved]
  | process | cancel =>
    obtain ⟨opcode, reserved⟩ := h
    simp [Instr.port, decode, decodeCmd, opcodeOf, acceptIf, opcode, reserved]
  | evIrq src txok rxok =>
    obtain ⟨opcode, high, rfl, rfl, low, rfl⟩ := h
    simp [Instr.port, decode, decodeEvt, opcodeOf, acceptIf, opcode, high, low]

/-- The decoder inverts the encoder: what it accepts on a port are the encodings of the port's
instructions, each as its own instruction. -/
theorem decode_eq_instr_iff {p : Port} {w : Word} {i : Instr} :
    decode p w = .instr i ↔ i.port = p ∧ encode i = w := by
  rw [encode_eq_iff]
  refine ⟨fun h => ?_, fun ⟨port, fields⟩ => port ▸ decode_of_hasFields fields⟩
  cases p with
  | cmd => exact decodeCmd_eq_instr h
  | evt => exact decodeEvt_eq_instr h

/-- Settles O1: the encoding has the port of the instruction and is its own. -/
theorem decodeEncodeAgree : Obligations.DecodeEncodeAgree := by
  unfold Obligations.DecodeEncodeAgree
  exact fun i => decode_eq_instr_iff.mpr ⟨rfl, rfl⟩

/-- Settles O3: each word is the encoding of the instruction beside it. -/
theorem commonWordsDecode : Obligations.CommonWordsDecode := by
  unfold Obligations.CommonWordsDecode
  refine ⟨?_, ?_, ?_, ?_, ?_, ?_, ?_, ?_, ?_, ?_, ?_⟩ <;>
    exact decode_eq_instr_iff.mpr ⟨rfl, rfl⟩

/-! ## The opcode table (Table 30-1) -/

/-- The encoding of every instruction fits the row of its mnemonic. -/
theorem encode_fits_row (i : Instr) : Laws.RowFit.Statement i := by
  cases i with
  | init b => exact Laws.RowFit.init b
  | transmit m s d pwr noadapt imm len => exact Laws.RowFit.transmit m s d pwr noadapt imm len
  | getParam id => exact Laws.RowFit.getParam id
  | setParam id => exact Laws.RowFit.setParam id
  | process => exact Laws.RowFit.process
  | cancel => exact Laws.RowFit.cancel
  | evIrq src txok rxok => exact Laws.RowFit.evIrq src txok rxok
  | evTick delta => exact Laws.RowFit.evTick delta

/-- A word that fits a row has the row's value in every field the mask covers. -/
theorem field_of_fits {r : OpcodeRow} {w : Word} (h : r.fits w = true) {start len : Nat}
    (covered : r.mask.extractLsb' start len = BitVec.allOnes len) :
    w.extractLsb' start len = r.pattern.extractLsb' start len := by
  have bits : w &&& r.mask = r.pattern := beq_iff_eq.mp h
  rw [← bits, BitVec.extractLsb'_and, covered, BitVec.and_allOnes]

/-- The opcode of a row, which `opcodeAssigned` and `opcodeOnPort` compare with a word's. -/
def OpcodeRow.opcode (r : OpcodeRow) : BitVec 6 := r.pattern.extractLsb' 26 6

theorem opcodes_nodup : (opcodeTable.map OpcodeRow.opcode).Nodup := by decide

theorem opcode_of_fits {r : OpcodeRow} {w : Word} (row : r ∈ opcodeTable) (h : r.fits w = true) :
    r.opcode = w.extractLsb' 26 6 := by
  have covered : ∀ r ∈ opcodeTable, r.mask.extractLsb' 26 6 = BitVec.allOnes 6 := by decide
  exact (field_of_fits h (covered r row)).symm

/-- The mask of a row covers the opcode and the reserved bits of R112 to R118 and the other bits are
operands, so a word that fits the row holds an instruction. -/
theorem hasFields_of_fits {r : OpcodeRow} {w : Word} (row : r ∈ opcodeTable)
    (h : r.fits w = true) : ∃ i : Instr, i.port = r.port ∧ HasFields w i := by
  simp only [opcodeTable, List.mem_cons, List.not_mem_nil, or_false] at row
  obtain rfl | rfl | rfl | rfl | rfl | rfl | rfl | rfl := row
  · exact ⟨.init (.ofCode _), rfl, field_of_fits h rfl, field_of_fits h rfl,
      (Band.code_ofCode _).symm⟩
  · exact ⟨.transmit (.ofCode _) (.ofBit _) (.ofCode _) _ _ _ _, rfl, field_of_fits h rfl,
      (Modulation.code_ofCode _).symm, (Scheme.bit_ofBit _).symm, (Delimiter.code_ofCode _).symm,
      rfl, rfl, rfl, field_of_fits h rfl, rfl⟩
  · exact ⟨.getParam _, rfl, field_of_fits h rfl, field_of_fits h rfl, rfl⟩
  · exact ⟨.setParam _, rfl, field_of_fits h rfl, field_of_fits h rfl, rfl⟩
  · exact ⟨.process, rfl, field_of_fits h rfl, field_of_fits h rfl⟩
  · exact ⟨.cancel, rfl, field_of_fits h rfl, field_of_fits h rfl⟩
  · exact ⟨.evIrq _ _ _, rfl, field_of_fits h rfl, field_of_fits h rfl, rfl, rfl,
      field_of_fits h rfl, rfl⟩
  · exact ⟨.evTick _, rfl, field_of_fits h rfl, field_of_fits h rfl, rfl⟩

theorem wellFormedWord_iff {p : Port} {w : Word} :
    wellFormedWord p w = true ↔ ∃ r ∈ opcodeTable, r.port = p ∧ r.fits w = true := by
  simp only [wellFormedWord, List.any_eq_true, Bool.and_eq_true, beq_iff_eq]

theorem decode_accepts_iff {p : Port} {w : Word} :
    (∃ i, decode p w = .instr i) ↔ wellFormedWord p w = true := by
  rw [wellFormedWord_iff]
  constructor
  · rintro ⟨i, h⟩
    obtain ⟨rfl, rfl⟩ := decode_eq_instr_iff.mp h
    obtain ⟨r, row, -, port, fits⟩ := encode_fits_row i
    exact ⟨r, row, port, fits⟩
  · rintro ⟨r, row, rfl, fits⟩
    obtain ⟨i, port, fields⟩ := hasFields_of_fits row fits
    exact ⟨i, port ▸ decode_of_hasFields fields⟩

/-- The rows' opcodes differ, and a word has one opcode. -/
theorem length_filter_fits_le_one (p : Port) (w : Word) :
    (opcodeTable.filter fun r => r.port == p && r.fits w).length ≤ 1 := by
  calc (opcodeTable.filter fun r => r.port == p && r.fits w).length
      = opcodeTable.countP fun r => r.port == p && r.fits w := List.countP_eq_length_filter.symm
    _ ≤ opcodeTable.countP ((· == w.extractLsb' 26 6) ∘ OpcodeRow.opcode) :=
        List.countP_mono_left fun r row h =>
          beq_iff_eq.mpr (opcode_of_fits row (Bool.and_eq_true_iff.mp h).2)
    _ = (opcodeTable.map OpcodeRow.opcode).count (w.extractLsb' 26 6) := List.countP_map.symm
    _ ≤ 1 := List.nodup_iff_count_le_one.mp opcodes_nodup _

/-- Settles O2: the rows are the acceptance test, their opcodes differ, and the decoder inverts the
encoder. -/
theorem acceptedWordsAreTableWords : Obligations.AcceptedWordsAreTableWords := by
  unfold Obligations.AcceptedWordsAreTableWords
  exact fun p w => ⟨decode_accepts_iff, length_filter_fits_le_one p w,
    fun i => decode_eq_instr_iff.mp⟩

/-- An accepted word passes each of the checks of R119 and R120. -/
theorem checks_of_wellFormedWord {p : Port} {w : Word} (h : wellFormedWord p w = true) :
    opcodeAssigned w = true ∧ reservedBitsClear w = true ∧ opcodeOnPort p w = true := by
  obtain ⟨r, row, port, fits⟩ := wellFormedWord_iff.mp h
  have opcode := beq_iff_eq.mpr (opcode_of_fits row fits)
  exact ⟨List.any_eq_true.mpr ⟨r, row, opcode⟩, List.any_eq_true.mpr ⟨r, row, fits⟩,
    List.any_eq_true.mpr ⟨r, row, Bool.and_eq_true_iff.mpr ⟨beq_iff_eq.mpr port, opcode⟩⟩⟩

theorem decode_reject_of_failed_check {p : Port} {w : Word}
    (h : opcodeAssigned w = false ∨ reservedBitsClear w = false ∨ opcodeOnPort p w = false) :
    ∃ r, decode p w = .reject r := by
  cases answer : decode p w with
  | reject r => exact ⟨r, rfl⟩
  | instr i =>
    have accepted : wellFormedWord p w = true := decode_accepts_iff.mp ⟨i, answer⟩
    obtain ⟨assigned, clear, onPort⟩ := checks_of_wellFormedWord accepted
    simp [assigned, clear, onPort] at h

theorem decodeTableWord_eq_some {nbits w : Nat} {i : Instr} (h : decodeTableWord nbits w = some i) :
    decode (portOfWord (tableWord nbits w)) (tableWord nbits w) = .instr i := by
  unfold decodeTableWord at h
  split at h
  case h_1 j answer => rw [answer, Option.some.inj h]
  case h_2 => cases h

end Sys2Proof

namespace Sys2Proof.Machine

/-! ## Words the block receives -/

theorem processWordOn_of_instr {p : Port} {w : Word} {i : Instr} (s : State)
    (h : decode p w = .instr i) : processWordOn p w s = exec i s := by
  rw [processWordOn, h]

theorem processWordOn_of_reject {p : Port} {w : Word} {r : Reject} (s : State)
    (h : decode p w = .reject r) : processWordOn p w s = .next (s.withResult 8#32) := by
  rw [processWordOn, h]
  rfl

/-- Settles O4: an accepted word passes every check, so a failed one makes the decoder reject. -/
theorem reservedWordRefused : Obligations.ReservedWordRefused := by
  unfold Obligations.ReservedWordRefused
  intro p w s failed
  obtain ⟨r, reject⟩ := decode_reject_of_failed_check failed
  exact processWordOn_of_reject s reject

/-- A port's owner has the right to write it, at its address and in the width R85 allows. -/
theorem receive_wordWrite (p : Port) (w : Word) (s : State) :
    receive (wordWrite p w) s = processWordOn p w s := by
  cases p <;> rfl

theorem step_of_wordWrite {p : Port} {w : Word} {s : State} {rest : List Access}
    (h : s.inputs = wordWrite p w :: rest) :
    step s = processWordOn p w { s with inputs := rest } := by
  rw [step, h]
  exact receive_wordWrite p w _

/-- Settles O5: a waiting word is received as `processWordOn`, by the decoder's answer. -/
theorem stepRunsDecodedInstruction : Obligations.StepRunsDecodedInstruction := by
  unfold Obligations.StepRunsDecodedInstruction
  refine ⟨fun p w i s rest waiting accept => ?runs, fun p w r s rest waiting reject => ?refused,
    fun nbits w i s row => ?fetched⟩
  case runs => rw [step_of_wordWrite waiting, processWordOn_of_instr _ accept]
  case refused => rw [step_of_wordWrite waiting, processWordOn_of_reject _ reject]
  case fetched =>
    have waiting : (s.withFetchWord nbits w).inputs =
        wordWrite (portOfWord (tableWord nbits w)) (tableWord nbits w) :: s.inputs := rfl
    rw [step_of_wordWrite waiting, processWordOn_of_instr _ (decodeTableWord_eq_some row)]
    rfl

end Sys2Proof.Machine
end

section
/-! PROOF. The carrier map (40_carrier_map.md): the bits of the inactive mask, how many carriers of
a band two masks exclude, and the scans for the first and the last carrier a mask leaves. -/

namespace Sys2Proof.Machine

/-! ## Counts of carriers -/

/-- Carrier i is governed by tone-map bit i div SUB(b) (R151). -/
theorem inactiveMask_getLsbD (b : Band) (tm : ToneMap) (i : Nat) :
    (inactiveMask b tm).getLsbD i =
      (decide (i < Config.total b) && !tm.getLsbD (i / Config.sub b)) :=
  maskOf_getLsbD (total_le b) _ i

/-- Above the band `fullMask` is 0, so only the band's own carriers are counted. -/
theorem popcount_and_fullMask (b : Band) (m : Mask) :
    popcount (m &&& fullMask b) = (List.range (Config.total b)).countP fun i => m.getLsbD i := by
  have parts : List.range 128 = List.range (Config.total b) ++
      (List.range (128 - Config.total b)).map (Config.total b + ·) := by
    rw [← List.range_add, Nat.add_sub_cancel' (total_le b)]
  have inside : (List.range (Config.total b)).countP (fun i => (m &&& fullMask b).getLsbD i) =
      (List.range (Config.total b)).countP fun i => m.getLsbD i := by
    refine List.countP_congr fun i hi => ?_
    rw [BitVec.getLsbD_and, fullMask_getLsbD, decide_eq_true (List.mem_range.mp hi), Bool.and_true]
  have outside : ((List.range (128 - Config.total b)).map (Config.total b + ·)).countP
      (fun i => (m &&& fullMask b).getLsbD i) = 0 := by
    simp [List.countP_eq_zero, fullMask_getLsbD]
  rw [popcount, parts, List.countP_append, inside, outside, Nat.add_zero]

/-- The number of excluded carriers of the band (R152). -/
theorem popcount_combinedMask (b : Band) (inactive static : Mask) :
    popcount (combinedMask b inactive static) =
      (List.range (Config.total b)).countP fun i => inactive.getLsbD i || static.getLsbD i := by
  rw [combinedMask, popcount_and_fullMask]
  simp only [BitVec.getLsbD_or]

theorem popcount_combinedMask_le (b : Band) (inactive static : Mask) :
    popcount (combinedMask b inactive static) ≤ Config.total b := by
  rw [popcount_combinedMask]
  simpa using List.countP_le_length (l := List.range (Config.total b))

/-- The carrier-count invariant (R156): the subtraction of R152 does not truncate. -/
theorem activeCarrierCount_add_popcount (b : Band) (inactive static : Mask) :
    activeCarrierCount b inactive static + popcount (combinedMask b inactive static) =
      Config.total b :=
  Nat.sub_add_cancel (popcount_combinedMask_le b inactive static)

/-! ## The first and the last used carrier -/

/-- A scan of a list that is sorted by `r` finds the `r`-least element with `p`. -/
theorem find?_eq_some_iff_of_pairwise {α : Type} {r : α → α → Prop} {p : α → Bool} {l : List α}
    {u : α} (asymm : ∀ i j, r i j → ¬r j i) (sorted : l.Pairwise r) (mem : u ∈ l) :
    l.find? p = some u ↔ p u = true ∧ ∀ i ∈ l, r i u → p i = false := by
  induction l with
  | nil => cases mem
  | cons x xs ih =>
    obtain ⟨least, sorted⟩ := List.pairwise_cons.mp sorted
    cases hx : p x with
    | true =>
      rw [List.find?_cons_of_pos hx, Option.some.injEq]
      constructor
      · rintro rfl
        refine ⟨hx, fun i hi before => ?_⟩
        obtain rfl | hi := List.mem_cons.mp hi
        · exact absurd before (asymm _ _ before)
        · exact absurd before (asymm _ _ (least i hi))
      · rintro ⟨-, clear⟩
        obtain rfl | later := List.mem_cons.mp mem
        · rfl
        · exact absurd (clear x List.mem_cons_self (least u later)) (by simp [hx])
    | false =>
      rw [List.find?_cons_of_neg (by simp [hx])]
      obtain rfl | later := List.mem_cons.mp mem
      · have absent : xs.find? p ≠ some u := fun found => by simp [List.find?_some found] at hx
        simp [absent, hx]
      · simp [ih sorted later, hx]

/-- No carrier's number is the sentinel 0xFF. -/
theorem getD_sentinel_eq_iff {b : Band} {u : Nat} (o : Option Nat) (hu : u < Config.total b) :
    o.getD 0xFF = u ↔ o = some u := by
  have := total_le b
  cases o with
  | none => simp; omega
  | some i => simp

theorem firstUsedCarrier_eq_iff {b : Band} {u : Nat} (mask : Mask) (hu : u < Config.total b) :
    firstUsedCarrier b mask = u ↔
      mask.getLsbD u = false ∧ ∀ i, i < u → mask.getLsbD i = true := by
  rw [firstUsedCarrier, getD_sentinel_eq_iff _ hu,
    find?_eq_some_iff_of_pairwise (fun _ _ => Nat.lt_asymm) List.pairwise_lt_range
      (List.mem_range.mpr hu)]
  simp only [Bool.not_eq_true', Bool.not_eq_false', List.mem_range]
  exact and_congr_right fun _ =>
    ⟨fun clear i hi => clear i (hi.trans hu) hi, fun clear i _ hi => clear i hi⟩

/-- The scan downwards: the band's carriers are sorted by `>`. -/
theorem lastUsedCarrier_eq_iff {b : Band} {u : Nat} (mask : Mask) (hu : u < Config.total b) :
    lastUsedCarrier b mask = u ↔
      mask.getLsbD u = false ∧ ∀ i, u < i → i < Config.total b → mask.getLsbD i = true := by
  have sorted : (List.range (Config.total b)).reverse.Pairwise (· > ·) :=
    List.pairwise_reverse.mpr List.pairwise_lt_range
  rw [lastUsedCarrier, getD_sentinel_eq_iff _ hu,
    find?_eq_some_iff_of_pairwise (fun _ _ => Nat.lt_asymm) sorted
      (List.mem_reverse.mpr (List.mem_range.mpr hu))]
  simp only [Bool.not_eq_true', Bool.not_eq_false', List.mem_reverse, List.mem_range]
  exact and_congr_right fun _ => forall_congr' fun i => forall_comm

theorem usedCarriers_of_all_excluded {b : Band} {mask : Mask}
    (excluded : ∀ i, i < Config.total b → mask.getLsbD i = true) :
    firstUsedCarrier b mask = 0xFF ∧ lastUsedCarrier b mask = 0xFF := by
  have first : (List.range (Config.total b)).find? (fun i => !mask.getLsbD i) = none := by
    simpa using excluded
  have last : (List.range (Config.total b)).reverse.find? (fun i => !mask.getLsbD i) = none := by
    simpa using excluded
  rw [firstUsedCarrier, lastUsedCarrier, first, last]
  exact ⟨rfl, rfl⟩

/-- Settles O35: the two scans find the least carrier in their order, the counts are those of the
combined mask, and a coherent frame gives up its pilots. -/
theorem carrierCounts : Obligations.CarrierCounts := by
  unfold Obligations.CarrierCounts
  refine ⟨fun b mask => ⟨usedCarriers_of_all_excluded,
      fun u hu => ⟨firstUsedCarrier_eq_iff mask hu, lastUsedCarrier_eq_iff mask hu⟩⟩,
    fun c b tm static => ⟨inactiveMask_getLsbD b tm, ?_⟩⟩
  have total := activeCarrierCount_add_popcount b (inactiveMask b tm) static
  exact ⟨total, popcount_combinedMask b (inactiveMask b tm) static ▸ total, rfl, rfl⟩

end Sys2Proof.Machine
end

section
/-! PROOF. The length arithmetic of the FCH (41_fch_codec.md): `nsym` and `cap` as an adjoint pair,
the block split of a legal length, and the padded length of its blocks. -/

namespace Sys2Proof.Machine

/-! ## Symbols and bytes (R186) -/

/-- f symbols are enough for n bytes exactly when they hold n bytes. -/
theorem nsym_le_iff {n f npc : Nat} {m : Modulation} (hnpc : npc ≠ 0) :
    nsym n m npc ≤ f ↔ n ≤ cap f m npc := by
  have carriers : 0 < npc * bpc m := Nat.mul_pos (Nat.pos_of_ne_zero hnpc) (bpc_pos m)
  have repeats : 0 < 8 * rep m := Nat.mul_pos (by decide) (rep_pos m)
  rw [nsym, cap, ceilDiv_le_iff carriers, Nat.le_div_iff_mul_le repeats, Nat.mul_assoc f,
    Nat.mul_comm 8 n, Nat.mul_assoc n]

theorem le_cap_nsym (n : Nat) (m : Modulation) {npc : Nat} (hnpc : npc ≠ 0) :
    n ≤ cap (nsym n m npc) m npc :=
  (nsym_le_iff hnpc).mp le_rfl

theorem nsym_mono {n k npc : Nat} (m : Modulation) (hnpc : npc ≠ 0) (h : n ≤ k) :
    nsym n m npc ≤ nsym k m npc :=
  (nsym_le_iff hnpc).mpr (h.trans (le_cap_nsym k m hnpc))

/-- `nsym` with the numbers of R185 put in. -/
theorem nsym_eq (n npc : Nat) (m : Modulation) :
    nsym n m npc = match m with
      | .robo => (32 * n + npc - 1) / npc
      | .bpsk => (8 * n + npc - 1) / npc
      | .qpsk => (8 * n + 2 * npc - 1) / (2 * npc)
      | .psk8 => (8 * n + 3 * npc - 1) / (3 * npc) := by
  cases m <;> simp only [nsym, ceilDiv, bpc, rep] <;> ring_nf

/-- `cap` with the numbers of R185 put in. -/
theorem cap_eq (f npc : Nat) (m : Modulation) :
    cap f m npc = match m with
      | .robo => f * npc / 32
      | .bpsk => f * npc / 8
      | .qpsk => 2 * f * npc / 8
      | .psk8 => 3 * f * npc / 8 := by
  cases m <;> simp only [cap, bpc, rep] <;> ring_nf

/-! ## The block split (R188) -/

theorem twoBlk_iff (b : Band) : Config.twoBlk b = true ↔ b = .fcc ∨ b = .arib := by
  cases b <;> decide

/-- A legal length is one block, or two halves of which the first is the larger; a block and its
parity fit an RS block. -/
theorem blockSplit_cases {b : Band} {m : Modulation} {len : Nat} (legal : len ≤ maxpay b m) :
    (blockSplit b m len = [len] ∧ ¬(Config.twoBlk b = true ∧ 255 < len + Config.parity m) ∧
        len + Config.parity m ≤ 255) ∨
      (blockSplit b m len = [(len + 1) / 2, len / 2] ∧
        (Config.twoBlk b = true ∧ 255 < len + Config.parity m) ∧
        (len + 1) / 2 + Config.parity m ≤ 255) := by
  have parity : Config.parity m ≤ 15 := by cases m <;> decide
  by_cases split : Config.twoBlk b = true ∧ 255 < len + Config.parity m
  · obtain ⟨two, long⟩ := split
    simp only [maxpay, two, if_true, Config.rsBlock] at legal
    refine .inr ⟨?_, ⟨two, long⟩, by omega⟩
    rw [blockSplit, if_pos ⟨two, by simp only [Config.rsBlock]; omega⟩]
    rfl
  · refine .inl ⟨?_, split, ?_⟩
    · rw [blockSplit, if_neg]
      rintro ⟨two, long⟩
      simp only [Config.rsBlock] at long
      exact split ⟨two, by omega⟩
    · by_cases two : Config.twoBlk b = true
      · exact Nat.le_of_not_lt fun long => split ⟨two, long⟩
      · simp only [maxpay, two, Bool.false_eq_true, if_false, Config.rsBlock] at legal
        omega

section
variable {b : Band} {m : Modulation} {len : Nat}

theorem blockSplit_sum (legal : len ≤ maxpay b m) : (blockSplit b m len).sum = len := by
  obtain ⟨e, -⟩ | ⟨e, -⟩ := blockSplit_cases legal <;>
    simp only [e, List.sum_cons, List.sum_nil] <;>
    omega

theorem blockSplit_length_eq_two_iff (legal : len ≤ maxpay b m) :
    (blockSplit b m len).length = 2 ↔ (b = .fcc ∨ b = .arib) ∧ 255 < len + Config.parity m := by
  rw [← twoBlk_iff]
  obtain ⟨e, one, -⟩ | ⟨e, two, -⟩ := blockSplit_cases legal
  · simp [e, one]
  · simp [e, two]

theorem blockSplit_length (legal : len ≤ maxpay b m) :
    (blockSplit b m len).length = 1 ∨ (blockSplit b m len).length = 2 := by
  obtain ⟨e, -⟩ | ⟨e, -⟩ := blockSplit_cases legal <;> simp [e]

/-- The first block is the largest. -/
theorem le_headD_blockSplit (legal : len ≤ maxpay b m) :
    ∀ n ∈ blockSplit b m len, n ≤ (blockSplit b m len).headD 0 := by
  obtain ⟨e, -⟩ | ⟨e, -⟩ := blockSplit_cases legal
  · simp [e]
  · simp only [e, List.mem_cons, List.not_mem_nil, or_false, List.headD_cons, forall_eq_or_imp,
      forall_eq]
    omega

theorem headD_blockSplit_le (legal : len ≤ maxpay b m) :
    (blockSplit b m len).headD 0 + Config.parity m ≤ 255 := by
  obtain ⟨e, -, fits⟩ | ⟨e, -, fits⟩ := blockSplit_cases legal <;> simpa [e] using fits

end

/-! ## Padded blocks (R189, R197) -/

theorem blockBytes_add_parity_le (f : Nat) (m : Modulation) (npc : Nat) :
    blockBytes f m npc + Config.parity m ≤ 255 := by
  have parity : Config.parity m ≤ 15 := by cases m <;> decide
  simp only [blockBytes, Config.rsBlock]
  omega

/-- A block is no longer than what its symbols hold beside the parity. -/
theorem le_frameLength_lb {b : Band} {m : Modulation} {len npc : Nat} (hnpc : npc ≠ 0)
    (legal : len ≤ maxpay b m) :
    ∀ n ∈ (frameLength b len m npc).blocks, n ≤ (frameLength b len m npc).lb := by
  intro n hn
  have largest := le_headD_blockSplit legal n hn
  have fits := headD_blockSplit_le legal
  have held := le_cap_nsym ((blockSplit b m len).headD 0 + Config.parity m) m hnpc
  simp only [frameLength, blockBytes, Config.rsBlock]
  omega

/-- Settles O36: `nsym` is the lower adjoint of `cap`, and a legal length is split in one of two
ways. -/
theorem lengthArithmetic : Obligations.LengthArithmetic := by
  unfold Obligations.LengthArithmetic
  refine ⟨fun n f m npc hnpc => ⟨nsym_eq n npc m, cap_eq f npc m, le_cap_nsym n m hnpc,
    (nsym_le_iff hnpc).mpr⟩, fun b m => by cases b <;> cases m <;> rfl, ?_⟩
  intro b m len npc hnpc _ legal
  refine ⟨blockSplit_sum legal, Nat.mul_comm _ _, rfl, rfl, ?_,
    blockSplit_length_eq_two_iff legal, blockBytes_add_parity_le _ m npc,
    le_frameLength_lb hnpc legal⟩
  exact (blockSplit_cases legal).imp And.left And.left

end Sys2Proof.Machine
end

section
/-! PROOF. The FCH on the wire (41_fch_codec.md): an encoded record as fields written into a zero
string and sealed by its CRC, the decoder's steps on a record, and the round trip of a data
frame. -/

namespace Sys2Proof.Machine

/-! ## Fields of a string -/

/-- A value and the positions it is written to. -/
structure BitField where
  pos : Nat
  width : Nat
  value : Nat

/-- The field lies in the first n positions. -/
abbrev BitField.Inside (f : BitField) (n : Nat) : Prop := f.pos + f.width ≤ n

/-- The field has no position among the w positions from q. -/
abbrev BitField.Apart (f : BitField) (q w : Nat) : Prop := q + w ≤ f.pos ∨ f.pos + f.width ≤ q

/-- The string with the fields written into it, one after another. -/
def putFields (bits : List Bool) (fs : List BitField) : List Bool :=
  fs.foldl (fun bits f => putBits bits f.pos f.width f.value) bits

theorem putFields_cons (bits : List Bool) (f : BitField) (fs : List BitField) :
    putFields bits (f :: fs) = putFields (putBits bits f.pos f.width f.value) fs := rfl

section
variable {bits : List Bool} {fs : List BitField}

/-- Writing fields inside the string keeps its length. -/
theorem length_putFields (inside : ∀ f ∈ fs, f.Inside bits.length) :
    (putFields bits fs).length = bits.length := by
  induction fs generalizing bits with
  | nil => rfl
  | cons f fs ih =>
    obtain ⟨first, rest⟩ := List.forall_mem_cons.mp inside
    have len := length_putBits (v := f.value) first
    rw [putFields_cons, ih (by rwa [len]), len]

/-- A span that no field touches keeps its value. -/
theorem getBits_putFields_of_apart {q w : Nat} (inside : ∀ f ∈ fs, f.Inside bits.length)
    (apart : ∀ f ∈ fs, f.Apart q w) : getBits (putFields bits fs) q w = getBits bits q w := by
  induction fs generalizing bits with
  | nil => rfl
  | cons f fs ih =>
    obtain ⟨first, rest⟩ := List.forall_mem_cons.mp inside
    obtain ⟨away, others⟩ := List.forall_mem_cons.mp apart
    rw [putFields_cons, ih (by rwa [length_putBits first]) others,
      getBits_putBits_of_disjoint first away]

/-- Of fields that lie apart, each reads back its value, cut to its width. -/
theorem getBits_putFields_of_mem {f : BitField} (inside : ∀ f ∈ fs, f.Inside bits.length)
    (apart : fs.Pairwise fun f g => g.Apart f.pos f.width) (mem : f ∈ fs) :
    getBits (putFields bits fs) f.pos f.width = f.value % 2 ^ f.width := by
  induction fs generalizing bits with
  | nil => cases mem
  | cons g fs ih =>
    obtain ⟨first, rest⟩ := List.forall_mem_cons.mp inside
    obtain ⟨away, others⟩ := List.pairwise_cons.mp apart
    have rest' : ∀ f ∈ fs, f.Inside (putBits bits g.pos g.width g.value).length := by
      rwa [length_putBits first]
    rw [putFields_cons]
    obtain rfl | later := List.mem_cons.mp mem
    · rw [getBits_putFields_of_apart rest' away, getBits_putBits first]
    · exact ih rest' others later

end

theorem getBits_replicate_false (n q w : Nat) : getBits (List.replicate n false) q w = 0 := by
  have zero : ∀ k, natOfBits (List.replicate k false) = 0 := by
    intro k
    induction k with
    | zero => rfl
    | succ k ih => rw [List.replicate_succ, natOfBits_cons, ih]; simp [bitNat]
  rw [getBits, List.drop_replicate, List.take_replicate, zero]

/-! ## The CRC field (R184) -/

/-- The protected span, the CRC and the tail are all of a record. -/
theorem fchFormat_spans (b : Band) :
    (fchFormat b).prot + (fchFormat b).crcWidth = (fchFormat b).tailPos ∧
      (fchFormat b).tailPos + (fchFormat b).tailWidth = 8 * Config.fchLen b := by
  cases b <;> decide

section
variable {b : Band} {bits : List Bool} (len : bits.length = 8 * Config.fchLen b)
include len

theorem crc_inside : (fchFormat b).prot + (fchFormat b).crcWidth ≤ bits.length := by
  have := fchFormat_spans b
  omega

theorem length_putCrc : (putCrc (fchFormat b) bits).length = 8 * Config.fchLen b :=
  (length_putBits (crc_inside len)).trans len

/-- The CRC field holds the CRC of the string it is part of: it lies past the protected span. -/
theorem getBits_putCrc :
    getBits (putCrc (fchFormat b) bits) (fchFormat b).prot (fchFormat b).crcWidth =
      fchCrc (fchFormat b) (putCrc (fchFormat b) bits) := by
  rw [fchCrc, putCrc, getBits_putBits (crc_inside len), take_putBits (crc_inside len) le_rfl]
  exact Nat.mod_eq_of_lt (BitVec.isLt _)

end

/-! ## Encoded data records (R191) -/

/-- What R191 writes into a data record, the CRC apart. -/
def dataFields (l : FchLayout) (x : FchFields) : List BitField :=
  [⟨pdcPos, 8, x.pdc.toNat⟩, ⟨modPos, 2, x.mod.code.toNat⟩, ⟨flPos, 9, x.fl⟩,
    ⟨tmPos, (formatOf l).tmWidth, x.tm.toNat⟩, ⟨(formatOf l).dtPos, 2, x.dt.code.toNat⟩,
    ⟨(formatOf l).schPos, 1, bitNat x.sch.bit⟩] ++
  match l with
  | .cen => []
  | .fa => [⟨rsbPos, 1, bitNat x.rsb⟩]

theorem fchFieldBits_eq (l : FchLayout) (x : FchFields) :
    fchFieldBits l x = putFields (List.replicate (formatOf l).nbits false) (dataFields l x) := by
  cases l <;> rfl

/-- The fields lie in the protected span. -/
theorem dataFields_protected (l : FchLayout) (x : FchFields) :
    ∀ f ∈ dataFields l x, f.Inside (formatOf l).prot := by
  cases l <;>
    simp [BitField.Inside, dataFields, formatOf, cenFormat, faFormat, pdcPos, modPos, flPos, tmPos,
      rsbPos]

theorem dataFields_apart (l : FchLayout) (x : FchFields) :
    (dataFields l x).Pairwise fun f g => g.Apart f.pos f.width := by
  cases l <;>
    simp [BitField.Apart, dataFields, formatOf, cenFormat, faFormat, pdcPos, modPos, flPos, tmPos,
      rsbPos]

section
variable (b : Band) (x : FchFields)

theorem length_zeros : (List.replicate (fchFormat b).nbits false).length = 8 * Config.fchLen b := by
  cases b <;> rfl

theorem dataFields_inside : ∀ f ∈ dataFields (Config.layout b) x,
    f.Inside (List.replicate (fchFormat b).nbits false).length := by
  intro f hf
  have := dataFields_protected _ x f hf
  have := crc_inside (length_zeros b)
  rw [fchFormat] at *
  omega

theorem length_fchFieldBits :
    (fchFieldBits (Config.layout b) x).length = 8 * Config.fchLen b := by
  rw [fchFieldBits_eq, ← length_zeros, fchFormat]
  exact length_putFields (dataFields_inside b x)

theorem bitsOfBytes_encodeData :
    bitsOfBytes (encodeData b x) = putCrc (fchFormat b) (fchFieldBits (Config.layout b) x) :=
  (bitsOfBytes_bytesOfBits _ (length_putCrc (length_fchFieldBits b x))).1

theorem length_encodeData : (encodeData b x).length = Config.fchLen b :=
  (bitsOfBytes_bytesOfBits _ (length_putCrc (length_fchFieldBits b x))).2

/-- An encoded record holds each field of R191. -/
theorem getBits_encodeData_of_mem {f : BitField} (mem : f ∈ dataFields (Config.layout b) x) :
    getBits (bitsOfBytes (encodeData b x)) f.pos f.width = f.value % 2 ^ f.width := by
  rw [bitsOfBytes_encodeData, putCrc,
    getBits_putBits_of_disjoint (crc_inside (length_fchFieldBits b x))
      (.inl (dataFields_protected _ x f mem)), fchFieldBits_eq]
  exact getBits_putFields_of_mem (dataFields_inside b x) (dataFields_apart _ x) mem

/-- An encoded record is 0 outside its fields and its CRC. -/
theorem getBits_encodeData_of_apart {q w : Nat}
    (crc : q + w ≤ (fchFormat b).prot ∨ (fchFormat b).prot + (fchFormat b).crcWidth ≤ q)
    (apart : ∀ f ∈ dataFields (Config.layout b) x, f.Apart q w) :
    getBits (bitsOfBytes (encodeData b x)) q w = 0 := by
  rw [bitsOfBytes_encodeData, putCrc,
    getBits_putBits_of_disjoint (crc_inside (length_fchFieldBits b x)) crc, fchFieldBits_eq]
  exact (getBits_putFields_of_apart (dataFields_inside b x) apart).trans
    (getBits_replicate_false ..)

/-- The tail is past every field and the CRC. -/
theorem recordSealed_encodeData : RecordSealed b (encodeData b x) := by
  have spans := fchFormat_spans b
  refine (recordSealed_iff (length_encodeData b x)).mpr ⟨?_, ?_⟩
  · rw [bitsOfBytes_encodeData]
    exact getBits_putCrc (length_fchFieldBits b x)
  · refine getBits_encodeData_of_apart b x (.inr spans.1.le) fun f hf => .inr ?_
    have := dataFields_protected _ x f hf
    rw [fchFormat] at *
    omega

theorem recordNames_encodeData : RecordNames b (encodeData b x) x.mod x.dt x.sch := by
  have mod := getBits_encodeData_of_mem b x (f := ⟨modPos, 2, x.mod.code.toNat⟩)
    (by simp [dataFields])
  have dt := getBits_encodeData_of_mem b x (f := ⟨(fchFormat b).dtPos, 2, x.dt.code.toNat⟩)
    (by simp [dataFields, fchFormat])
  have sch := getBits_encodeData_of_mem b x (f := ⟨(fchFormat b).schPos, 1, bitNat x.sch.bit⟩)
    (by simp [dataFields, fchFormat])
  refine (recordNames_iff (length_encodeData b x)).mpr ⟨?_, ?_, ?_⟩
  · rw [mod]
    cases x.mod <;> rfl
  · rw [dt]
    cases x.dt <;> rfl
  · rw [sch]
    cases x.sch <;> rfl

/-- The fields as the record's positions show them. -/
theorem recordField_encodeData {f : BitField} (mem : f ∈ dataFields (Config.layout b) x) :
    recordField (encodeData b x) f.pos f.width = f.value % 2 ^ f.width := by
  have inside := dataFields_inside b x f mem
  rw [length_zeros, ← length_encodeData b x] at inside
  rw [← getBits_bitsOfBytes inside, getBits_encodeData_of_mem b x mem]

theorem recordField_encodeData_pdc : recordField (encodeData b x) 0 8 = x.pdc.toNat :=
  (recordField_encodeData b x (f := ⟨pdcPos, 8, x.pdc.toNat⟩) (by simp [dataFields])).trans
    (Nat.mod_eq_of_lt x.pdc.isLt)

theorem recordField_encodeData_fl : recordField (encodeData b x) 10 9 = x.fl % 512 :=
  recordField_encodeData b x (f := ⟨flPos, 9, x.fl⟩) (by simp [dataFields])

theorem recordField_encodeData_tm :
    recordField (encodeData b x) 19 (fchFormat b).tmWidth =
      x.tm.toNat % 2 ^ (fchFormat b).tmWidth :=
  recordField_encodeData b x (f := ⟨tmPos, (fchFormat b).tmWidth, x.tm.toNat⟩)
    (by simp [dataFields, fchFormat])

/-- RSB, and the bits of the FA layout that are 0 (BF and RSV). -/
theorem recordField_encodeData_fa (fa : Config.layout b = .fa) :
    recordField (encodeData b x) 46 1 = 0 ∧ recordField (encodeData b x) 47 1 = x.rsb.toNat ∧
      recordField (encodeData b x) 48 10 = 0 := by
  have format : fchFormat b = faFormat := by rw [fchFormat, fa, formatOf]
  have zero : ∀ q w, q + w ≤ 58 → (∀ f ∈ dataFields .fa x, f.Apart q w) →
      recordField (encodeData b x) q w = 0 := by
    intro q w span apart
    have bytes : 72 ≤ 8 * Config.fchLen b := by revert fa; cases b <;> decide
    rw [← getBits_bitsOfBytes (by rw [length_encodeData]; omega)]
    exact getBits_encodeData_of_apart b x (.inl (by rwa [format])) (fa ▸ apart)
  refine ⟨zero 46 1 (by decide) ?_, ?_, zero 48 10 (by decide) ?_⟩
  · simp [BitField.Apart, dataFields, formatOf, faFormat, pdcPos, modPos, flPos, tmPos, rsbPos]
  · rw [show 47 = rsbPos from rfl]
    refine (recordField_encodeData b x (f := ⟨rsbPos, 1, bitNat x.rsb⟩)
      (by simp [dataFields, fa])).trans ?_
    cases x.rsb <;> rfl
  · simp [BitField.Apart, dataFields, formatOf, faFormat, pdcPos, modPos, flPos, tmPos, rsbPos]

/-- A tone map without reserved bits fits the TM field (R178). -/
theorem recordField_encodeData_toneMap (usable : x.tm >>> Config.tmBits b = 0#24) :
    recordField (encodeData b x) 19 (fchFormat b).tmWidth = x.tm.toNat := by
  have width : Config.tmBits b ≤ (fchFormat b).tmWidth := by cases b <;> decide
  have small : x.tm.toNat / 2 ^ Config.tmBits b = 0 := by
    rw [← Nat.shiftRight_eq_div_pow, ← BitVec.toNat_ushiftRight, usable]
    rfl
  rw [recordField_encodeData_tm]
  refine Nat.mod_eq_of_lt ?_
  exact ((Nat.div_eq_zero_iff_lt (Nat.two_pow_pos _)).mp small).trans_le
    (Nat.pow_le_pow_right (by decide) width)

end

/-! ## The decoder's steps (R193) -/

section
variable {b : Band} {raw : List Byte}

/-- Steps 1 and 2. -/
theorem decodeFch_of_not_sealed (c : Cfg) (static : Mask) (len : raw.length = Config.fchLen b)
    (h : ¬RecordSealed b raw) : decodeFch c b raw static = none := by
  rw [recordSealed_iff len, not_and_or] at h
  rw [decodeFch]
  obtain crc | tail := h
  · exact if_pos crc
  · rw [if_pos tail, ite_self]

/-- Step 3: a sealed record is a control header, or a data header with these fields. -/
theorem decodeFch_of_sealed (c : Cfg) (static : Mask) {m : Modulation} {dt : Delimiter}
    {sch : Scheme} (len : raw.length = Config.fchLen b) (sealed : RecordSealed b raw)
    (names : RecordNames b raw m dt sch) :
    decodeFch c b raw static =
      if dt.isControl then some (.control dt (BitVec.ofNat 8 (recordField raw 0 8)) m sch)
      else
        decodeDataHeader c b static dt (BitVec.ofNat 8 (recordField raw 0 8)) m sch
          (recordField raw 10 9) (BitVec.ofNat 24 (recordField raw 19 (fchFormat b).tmWidth))
          (getRsb (Config.layout b) (bitsOfBytes raw)) := by
  obtain ⟨crc, tail⟩ := (recordSealed_iff len).mp sealed
  obtain ⟨rfl, rfl, rfl⟩ := (recordNames_iff len).mp names
  have bytes : 40 ≤ 8 * raw.length := by rw [len]; cases b <;> decide
  have tm : 19 + (fchFormat b).tmWidth ≤ 8 * raw.length := by rw [len]; cases b <;> decide
  rw [← getBits_bitsOfBytes (by omega), ← getBits_bitsOfBytes (by omega), ← getBits_bitsOfBytes tm,
    decodeFch]
  simp only [crc, tail, ne_eq, not_true_eq_false, if_false]
  rfl

theorem getRsb_eq_one_iff (len : raw.length = Config.fchLen b) :
    getRsb (Config.layout b) (bitsOfBytes raw) = 1 ↔
      Config.layout b = .fa ∧ recordField raw 47 1 = 1 := by
  cases h : Config.layout b with
  | cen => simp [getRsb]
  | fa =>
    have bytes : 72 ≤ 8 * raw.length := by rw [len]; revert h; cases b <;> decide
    simp only [getRsb, true_and, rsbPos]
    rw [getBits_bitsOfBytes (by omega)]

end

/-- The header's block size in symbols: half of FL when RSB is set (step 6). -/
abbrev headerBlock (two : Prop) [Decidable two] (fl : Nat) : Nat := if two then fl / 2 else fl

/-- Both blocks of a header have the same size (step 6). -/
theorem splitSymbols_eq {rsb : Nat} {two : Prop} [Decidable two] (htwo : rsb = 1 ↔ two)
    (fl : Nat) :
    splitSymbols rsb fl =
      if two ∧ fl % 2 = 1 then none
      else some (List.replicate (if two then 2 else 1) (headerBlock two fl)) := by
  by_cases both : two
  · simp [splitSymbols, htwo.mpr both, both, headerBlock]
  · simp [splitSymbols, mt htwo.mp both, both, headerBlock]

theorem blockInBounds_iff (c : Cfg) (f : Nat) (m : Modulation) (npc : Nat) :
    blockInBounds c f m npc = true ↔
      f ≤ nsym 255 m npc ∧ c.minPayload + Config.parity m + 1 ≤ min (cap f m npc) 255 := by
  rw [blockInBounds, Bool.and_eq_true, decide_eq_true_iff, decide_eq_true_iff, Config.rsBlock]

theorem reservedToneMapBits_iff (b : Band) (tm : ToneMap) :
    reservedToneMapBits b tm = true ↔ tm >>> Config.tmBits b ≠ 0#24 := by
  simp [reservedToneMapBits]

/-- What steps 4 to 8 ask of a data header. -/
abbrev HeaderInBounds (c : Cfg) (b : Band) (m : Modulation) (tm : ToneMap) (fl npc : Nat)
    (two : Prop) [Decidable two] : Prop :=
  tm >>> Config.tmBits b = 0#24 ∧ npc ≠ 0 ∧ ¬(two ∧ fl % 2 = 1) ∧
    headerBlock two fl ≤ nsym 255 m npc ∧
    c.minPayload + Config.parity m + 1 ≤ min (cap (headerBlock two fl) m npc) 255

/-- Steps 4 to 9, one check after the other. -/
theorem decodeDataHeader_eq (c : Cfg) (b : Band) (static : Mask) (dt : Delimiter) (pdc : BitVec 8)
    (m : Modulation) (sch : Scheme) (fl : Nat) (tm : ToneMap) {rsb : Nat} {two : Prop}
    [Decidable two] (htwo : rsb = 1 ↔ two) :
    let npc := payloadCarrierCount c b tm static sch
    decodeDataHeader c b static dt pdc m sch fl tm rsb =
      if HeaderInBounds c b m tm fl npc two then
        some (.data dt pdc m sch tm fl (headerBlock two fl)
          (List.replicate (if two then 2 else 1) (blockBytes (headerBlock two fl) m npc)) npc)
      else none := by
  intro npc
  have some_block : (if two then 2 else 1) ≠ 0 := by split <;> decide
  have first (f : Nat) : (List.replicate (if two then 2 else 1) f).headD 0 = f := by split <;> rfl
  rw [decodeDataHeader]
  by_cases reserved : tm >>> Config.tmBits b = 0#24
  case neg =>
    rw [if_pos ((reservedToneMapBits_iff b tm).mpr reserved),
      if_neg fun ⟨usable, _⟩ => reserved usable]
  rw [if_neg fun h => (reservedToneMapBits_iff b tm).mp h reserved]
  by_cases carriers : npc = 0
  case pos => rw [if_pos carriers, if_neg fun ⟨_, present, _⟩ => present carriers]
  rw [if_neg carriers, splitSymbols_eq htwo]
  by_cases odd : two ∧ fl % 2 = 1
  case pos => rw [if_pos odd, if_neg fun ⟨_, _, even, _⟩ => even odd]
  rw [if_neg odd]
  simp only [HeaderInBounds, reserved, carriers, odd, first, List.all_replicate, some_block,
    List.map_replicate, blockInBounds_iff, if_false, not_false_eq_true, true_and, ne_eq, npc]

/-! ## The round trip (R195) -/

/-- Decoding an encoded data record checks the fields that were encoded. -/
theorem decodeFch_encodeData (c : Cfg) {b : Band} (static : Mask) {x : FchFields} {two : Prop}
    [Decidable two] (data : x.dt.isControl = false) (usable : x.tm >>> Config.tmBits b = 0#24)
    (short : x.fl ≤ 511) (htwo : Config.layout b = .fa ∧ x.rsb = true ↔ two) :
    let npc := payloadCarrierCount c b x.tm static x.sch
    decodeFch c b (encodeData b x) static =
      if HeaderInBounds c b x.mod x.tm x.fl npc two then
        some (.data x.dt x.pdc x.mod x.sch x.tm x.fl (headerBlock two x.fl)
          (List.replicate (if two then 2 else 1) (blockBytes (headerBlock two x.fl) x.mod npc)) npc)
      else none := by
  have rsb : getRsb (Config.layout b) (bitsOfBytes (encodeData b x)) = 1 ↔ two := by
    rw [getRsb_eq_one_iff (length_encodeData b x), ← htwo]
    refine and_congr_right fun fa => ?_
    obtain ⟨-, rsb, -⟩ := recordField_encodeData_fa b x fa
    rw [rsb, Bool.toNat_eq_one]
  rw [decodeFch_of_sealed c static (length_encodeData b x) (recordSealed_encodeData b x)
      (recordNames_encodeData b x), data, recordField_encodeData_pdc, recordField_encodeData_fl,
    recordField_encodeData_toneMap b x usable, Nat.mod_eq_of_lt (by omega),
    BitVec.ofNat_toNat, BitVec.ofNat_toNat, BitVec.setWidth_eq, BitVec.setWidth_eq]
  exact decodeDataHeader_eq c b static x.dt x.pdc x.mod x.sch x.fl x.tm rsb

/-- The header of a data frame passes the decoder's checks, and its blocks have the frame's size. -/
theorem headerInBounds_frameLength {c : Cfg} {b : Band} {m : Modulation} {tm : ToneMap}
    {len npc : Nat} {two : Prop} [Decidable two] (usable : tm >>> Config.tmBits b = 0#24)
    (hnpc : npc ≠ 0) (legal : len ≤ maxpay b m)
    (reached : c.minPayload + 1 ≤ (frameLength b len m npc).lb)
    (htwo : two ↔ (frameLength b len m npc).blocks.length = 2) :
    (if two then 2 else 1) = (frameLength b len m npc).blocks.length ∧
      headerBlock two (frameLength b len m npc).fl = (frameLength b len m npc).flb ∧
      HeaderInBounds c b m tm (frameLength b len m npc).fl npc two := by
  have count : (if two then 2 else 1) = (frameLength b len m npc).blocks.length := by
    have one_or_two : (frameLength b len m npc).blocks.length = 1 ∨
        (frameLength b len m npc).blocks.length = 2 := blockSplit_length legal
    by_cases both : two
    · rw [if_pos both, htwo.mp both]
    · rw [if_neg both, one_or_two.resolve_right (mt htwo.mpr both)]
  have total : (frameLength b len m npc).fl =
      (frameLength b len m npc).flb * (if two then 2 else 1) := by rw [count]; rfl
  have size : headerBlock two (frameLength b len m npc).fl = (frameLength b len m npc).flb := by
    rw [headerBlock, total]
    split <;> omega
  refine ⟨count, size, usable, hnpc, ?_, ?_, ?_⟩
  · rintro ⟨both, odd⟩
    rw [total, if_pos both] at odd
    omega
  · rw [size]
    exact nsym_mono m hnpc (headD_blockSplit_le legal)
  · rw [size]
    have : (frameLength b len m npc).lb =
      min (cap (frameLength b len m npc).flb m npc) 255 - Config.parity m := rfl
    omega

/-- The layouts with an RSB flag are those of the bands with two-block mode. -/
theorem layout_eq_fa_iff (b : Band) : Config.layout b = .fa ↔ b = .fcc ∨ b = .arib := by
  cases b <;> decide

/-- Settles O37: the fields are written apart from each other and from CRC and tail, the decoder
reads them where they stand, and the header of a data frame is within its bounds. -/
theorem fchRoundTrip : Obligations.FchRoundTrip := by
  unfold Obligations.FchRoundTrip
  refine ⟨fun b x => ?_, fun c b static raw len => ⟨decodeFch_of_not_sealed c static len, ?_⟩, ?_⟩
  · refine ⟨length_encodeData b x, recordSealed_encodeData b x, recordNames_encodeData b x,
      recordField_encodeData_pdc b x, recordField_encodeData_fl b x, ?_⟩
    have tm := recordField_encodeData_tm b x
    have fa := recordField_encodeData_fa b x
    cases h : Config.layout b <;> rw [fchFormat, h] at tm
    case cen => exact tm
    case fa => exact ⟨tm.trans (Nat.mod_eq_of_lt x.tm.isLt), fa h⟩
  · intro m dt sch sealed names
    have decoded := decodeFch_of_sealed c static len sealed names
    have width : (fchFormat b).tmWidth = match Config.layout b with
      | .cen => 6
      | .fa => 24 := by rw [fchFormat]; cases Config.layout b <;> rfl
    rw [width] at decoded
    refine ⟨?_, fun data => ?_⟩
    · rintro (rfl | rfl) <;> exact decoded
    · have noControl : dt.isControl = false := by obtain rfl | rfl := data <;> rfl
      rw [noControl, decodeDataHeader_eq _ _ _ _ _ _ _ _ _ (getRsb_eq_one_iff len)] at decoded
      exact ⟨fun good => decoded.trans (if_pos good), fun bad => decoded.trans (if_neg bad)⟩
  · intro c b m sch dt pdc tm static len data usable npc f hnpc _ legal short reached
    have noControl : dt.isControl = false := by obtain rfl | rfl := data <;> rfl
    have htwo : Config.layout b = .fa ∧ decide (f.blocks.length = 2) = true ↔
        f.blocks.length = 2 := by
      rw [decide_eq_true_iff, layout_eq_fa_iff]
      exact and_iff_right_of_imp fun both =>
      have ⟨fa, _⟩ := (blockSplit_length_eq_two_iff legal).mp both
      fa
    obtain ⟨count, size, bounds⟩ := headerInBounds_frameLength usable hnpc legal reached Iff.rfl
    refine ⟨?_, le_frameLength_lb hnpc legal⟩
    rw [decodeFch_encodeData c static noControl usable short htwo, if_pos bounds, count, size]
    rfl

end Sys2Proof.Machine
end

section
/-! PROOF. Single-bit errors of the FCH (R196): a flipped bit of the protected span changes the CRC
that is computed, one of the CRC field the CRC that is read, one of the tail the zero tail. -/

namespace Sys2Proof.Machine

/-! ## The flipped bit of a string -/

theorem modify_not_ne {l : List Bool} {k : Nat} (h : k < l.length) : l.modify k not ≠ l := by
  intro e
  have bit := congrArg (·[k]?) e
  simp [h] at bit

theorem recordBit_flipBit {raw : List Byte} {p : Nat} (h : p < 8 * raw.length) (i : Nat) :
    recordBit (flipBit raw p) i = (recordBit raw i ^^ decide (p = i)) := by
  have inside : p / 8 < raw.length := by omega
  by_cases byte : p / 8 = i / 8
  · have place : (7 - p % 8 = 7 - i % 8) ↔ p = i := by omega
    have small : 7 - p % 8 < 8 := by omega
    rw [byte] at inside
    simp [recordBit, flipBit, byte, inside, place, small]
  · have other : p ≠ i := fun e => byte (by rw [e])
    simp [recordBit, flipBit, byte, other]

/-- Flipping a bit of a record flips that bit of its string. -/
theorem bitsOfBytes_flipBit {raw : List Byte} {p : Nat} (h : p < 8 * raw.length) :
    bitsOfBytes (flipBit raw p) = (bitsOfBytes raw).modify p not := by
  refine List.ext_getElem? fun i => ?_
  have len : (flipBit raw p).length = raw.length := List.length_set
  rw [List.getElem?_modify, getElem?_bitsOfBytes, getElem?_bitsOfBytes, len, recordBit_flipBit h]
  by_cases hi : i < 8 * raw.length
  · by_cases e : p = i <;> simp [hi, e]
  · simp [hi]

/-! ## Fields -/

/-- The bits of a string are determined by its length and number. -/
theorem natOfBits_inj {xs ys : List Bool} (len : xs.length = ys.length)
    (h : natOfBits xs = natOfBits ys) : xs = ys := by
  induction xs generalizing ys with
  | nil => exact (List.length_eq_zero_iff.mp len.symm).symm
  | cons x xs ih =>
    cases ys with
    | nil => cases len
    | cons y ys =>
      have len' : xs.length = ys.length := Nat.succ.inj len
      have hx := natOfBits_lt xs
      have hy := natOfBits_lt ys
      rw [natOfBits_cons, natOfBits_cons, len'] at h
      rw [len'] at hx
      obtain rfl | differ := eq_or_ne x y
      · rw [ih len' (Nat.add_left_cancel h)]
      · exfalso
        cases x <;> cases y <;> simp [bitNat] at h differ <;> omega

/-- A field with a flipped bit changes its value. -/
theorem getBits_modify_ne {bits : List Bool} {p q w : Nat} (hp : p < bits.length) (hq : q ≤ p)
    (hw : p < q + w) : getBits (bits.modify p not) q w ≠ getBits bits q w := by
  have span : ((bits.modify p not).drop q).take w = ((bits.drop q).take w).modify (p - q) not := by
    rw [List.drop_modify_of_ge, List.take_modify]
    omega
  rw [getBits, getBits, span]
  refine mt (natOfBits_inj (List.length_modify ..)) (modify_not_ne ?_)
  rw [List.length_take, List.length_drop]
  omega

theorem getBits_modify_of_apart {bits : List Bool} {p q w : Nat} (h : p < q ∨ q + w ≤ p) :
    getBits (bits.modify p not) q w = getBits bits q w :=
  getBits_congr fun i _ _ => List.getElem?_modify_ne _ _ (by omega)

/-! ## The CRC (R183) -/

section
variable {W : Nat} {poly : BitVec W} (odd : poly.getLsbD 0 = true)
include odd

/-- Only the generator reaches bit 0, so that bit says whether it was added. -/
theorem crcStep_getLsbD_zero (reg : BitVec W) (x : Bool) :
    (crcStep poly reg x).getLsbD 0 = (reg.msb ^^ x) := by
  rw [crcStep]
  split
  · next h => simp [odd, h]
  · next h => simp [Bool.eq_false_of_not_eq_true h]

theorem crcStep_not_ne (reg : BitVec W) (x : Bool) :
    crcStep poly reg (!x) ≠ crcStep poly reg x := by
  intro e
  have bit := congrArg (·.getLsbD 0) e
  simp only [crcStep_getLsbD_zero odd] at bit
  simp at bit

/-- A register is determined by its successor and the bit shifted in: bit 0 of the successor gives
the bit shifted out. -/
theorem crcStep_injective (x : Bool) : Function.Injective fun reg => crcStep poly reg x := by
  intro reg reg' e
  have bit := congrArg (·.getLsbD 0) e
  simp only [crcStep_getLsbD_zero odd, Bool.xor_left_inj] at bit
  have shifted : reg <<< 1 = reg' <<< 1 := by
    simp only [crcStep, bit] at e
    split at e
    · exact (BitVec.xor_left_inj poly).mp e
    · exact e
  refine BitVec.eq_of_getElem_eq fun i hi => ?_
  by_cases top : i = W - 1
  · simpa [BitVec.msb_eq_getLsbD_last, ← top, hi] using bit
  · have next := congrArg (·.getLsbD (i + 1)) shifted
    simpa [show i + 1 < W by omega] using next

theorem foldl_crcStep_injective (bits : List Bool) :
    Function.Injective fun reg => bits.foldl (crcStep poly) reg := by
  induction bits with
  | nil => exact Function.injective_id
  | cons x bits ih => exact ih.comp (crcStep_injective odd x)

/-- A generator with a constant term detects every single-bit error. -/
theorem crc_modify_ne {bits : List Bool} {p : Nat} (h : p < bits.length) :
    crc poly (bits.modify p not) ≠ crc poly bits := by
  suffices ∀ reg,
      (bits.modify p not).foldl (crcStep poly) reg ≠ bits.foldl (crcStep poly) reg from
    fun e => this 0#W (BitVec.not_inj.mp e)
  induction bits generalizing p with
  | nil => cases h
  | cons x bits ih =>
    intro reg
    cases p with
    | zero =>
      rw [List.modify_zero_cons]
      exact (foldl_crcStep_injective odd bits).ne (crcStep_not_ne odd reg x)
    | succ p =>
      rw [List.modify_succ_cons]
      exact ih (Nat.lt_of_succ_lt_succ h) _

end

/-! ## Records -/

/-- The generators of Table 00-1 have a constant term. -/
theorem poly_odd (b : Band) : (fchFormat b).poly.getLsbD 0 = true := by cases b <;> decide

theorem fchCrc_modify_ne {b : Band} {bits : List Bool} {p : Nat}
    (len : bits.length = 8 * Config.fchLen b) (h : p < (fchFormat b).prot) :
    fchCrc (fchFormat b) (bits.modify p not) ≠ fchCrc (fchFormat b) bits := by
  have inside := crc_inside len
  rw [fchCrc, fchCrc, List.take_modify]
  refine mt BitVec.eq_of_toNat_eq (crc_modify_ne (poly_odd b) ?_)
  rw [List.length_take]
  omega

theorem fchCrc_modify_of_le {b : Band} {bits : List Bool} {p : Nat}
    (h : (fchFormat b).prot ≤ p) :
    fchCrc (fchFormat b) (bits.modify p not) = fchCrc (fchFormat b) bits := by
  rw [fchCrc, fchCrc, List.take_modify, List.modify_eq_self]
  exact (List.length_take_le _ _).trans h

/-- A sealed record with one bit flipped is not sealed. -/
theorem not_recordSealed_flipBit {b : Band} {raw : List Byte} {p : Nat}
    (len : raw.length = Config.fchLen b) (sealed : RecordSealed b raw)
    (hp : p < 8 * Config.fchLen b) : ¬RecordSealed b (flipBit raw p) := by
  obtain ⟨crc, tail⟩ := (recordSealed_iff len).mp sealed
  obtain ⟨endCrc, endTail⟩ := fchFormat_spans b
  have bits : (bitsOfBytes raw).length = 8 * Config.fchLen b := by rw [length_bitsOfBytes, len]
  rw [recordSealed_iff (by rw [flipBit, List.length_set, len]),
    bitsOfBytes_flipBit (by rwa [len])]
  rintro ⟨crc', tail'⟩
  by_cases inProt : p < (fchFormat b).prot
  · rw [getBits_modify_of_apart (.inl inProt), crc] at crc'
    exact fchCrc_modify_ne bits inProt crc'.symm
  · rw [fchCrc_modify_of_le (Nat.le_of_not_lt inProt), ← crc] at crc'
    by_cases inCrc : p < (fchFormat b).tailPos
    · exact getBits_modify_ne (by omega) (by omega) (by omega) crc'
    · rw [← tail] at tail'
      exact getBits_modify_ne (by omega) (by omega) (by omega) tail'

/-! ## Records from caller bytes (R192) -/

section
variable {b : Band} {raw : List Byte} (len : raw.length = Config.fchLen b)
include len

theorem length_callerBits :
    (putCrc (fchFormat b) (bitsOfBytes raw)).length = 8 * Config.fchLen b :=
  length_putCrc (by rw [length_bitsOfBytes, len])

theorem tail_inside : (fchFormat b).tailPos + (fchFormat b).tailWidth ≤
    (putCrc (fchFormat b) (bitsOfBytes raw)).length := by
  rw [length_callerBits len, (fchFormat_spans b).2]

theorem encodeAck_bits :
    bitsOfBytes (encodeAck b raw) =
        putBits (putCrc (fchFormat b) (bitsOfBytes raw)) (fchFormat b).tailPos
          (fchFormat b).tailWidth 0 ∧
      (encodeAck b raw).length = Config.fchLen b :=
  bitsOfBytes_bytesOfBits _ ((length_putBits (tail_inside len)).trans (length_callerBits len))

/-- Clearing the tail keeps the CRC and the span it protects. -/
theorem recordSealed_encodeAck : RecordSealed b (encodeAck b raw) := by
  obtain ⟨string, length⟩ := encodeAck_bits len
  have endCrc := (fchFormat_spans b).1
  rw [recordSealed_iff length, string]
  refine ⟨?_, by rw [getBits_putBits (tail_inside len), Nat.zero_mod]⟩
  rw [getBits_putBits_of_disjoint (tail_inside len) (.inl endCrc.le),
    getBits_putCrc (by rw [length_bitsOfBytes, len]), fchCrc, fchCrc,
    take_putBits (tail_inside len) (by omega)]

end

/-- Settles O38: what the block encodes is sealed, and a flipped bit breaks the seal. -/
theorem singleBitErrorsDetected : Obligations.SingleBitErrorsDetected := by
  unfold Obligations.SingleBitErrorsDetected
  intro c b static p hp
  have fails {raw : List Byte} (len : raw.length = Config.fchLen b) (sealed : RecordSealed b raw) :
      decodeFch c b (flipBit raw p) static = none :=
    decodeFch_of_not_sealed c static (List.length_set.trans len)
      (not_recordSealed_flipBit len sealed hp)
  exact ⟨fun x => fails (length_encodeData b x) (recordSealed_encodeData b x),
    fun raw len => fails (encodeAck_bits len).2 (recordSealed_encodeAck len)⟩

end Sys2Proof.Machine
end

section
/-! PROOF. TRANSMIT in an idle block (46_host_commands.md): what the checks of R352 answer, one after
the other, and the frames they reject. -/

namespace Sys2Proof.Machine

/-! ## The checks of R352 -/

namespace State

variable (c : Cfg) {q : TxRequest} {s : State}

theorem lateStart_iff (q : TxRequest) (s : State) :
    s.lateStart q = true ↔ q.imm = false ∧ (s.win.txTime - s.glob.timeMs).toInt < 0 := by
  simp [lateStart, timeDiff]

/-- The length is checked first. -/
theorem dataCheck_of_length (h : ¬(1 ≤ q.len.toNat ∧ q.len.toNat ≤ maxpay s.glob.band q.mod)) :
    s.dataCheck c q = some .invalidLength :=
  if_pos (by omega)

section
variable (length : 1 ≤ q.len.toNat ∧ q.len.toNat ≤ maxpay s.glob.band q.mod)
include length

theorem dataCheck_of_reserved (h : ¬s.win.txTonemap >>> Config.tmBits s.glob.band = 0#24) :
    s.dataCheck c q = some .invalidTonemap := by
  rw [dataCheck, if_neg (by omega), if_pos ((reservedToneMapBits_iff ..).mpr h)]

variable (toneMap : s.win.txTonemap >>> Config.tmBits s.glob.band = 0#24)
include toneMap

/-- The carriers and the symbols are looked at when length and tone map are in order. -/
theorem dataCheck_of_toneMap : s.dataCheck c q =
    if s.txCarriers c q.sch = 0 then some .invalidTonemap
    else if 511 < (s.txFrameLength c q).fl then some .invalidLength
    else none := by
  rw [dataCheck, if_neg (by omega), if_neg fun h => (reservedToneMapBits_iff ..).mp h toneMap]
  rfl

end

/-- A check of a data frame comes before its start time. -/
theorem frameCheck_of_dataCheck {x : ResultCode} (data : q.dt.isControl = false)
    (h : s.dataCheck c q = some x) : s.frameCheck c q = some x := by
  simp [frameCheck, data, h]

/-- The start time is the last check, and a control frame's only one. -/
theorem frameCheck_of_late (late : s.lateStart q = true)
    (h : q.dt.isControl = true ∨ s.dataCheck c q = none) : s.frameCheck c q = some .timeout := by
  have checked : (if q.dt.isControl then none else s.dataCheck c q) = none := by
    obtain control | passed := h
    · exact if_pos control
    · rw [passed, ite_self]
  simp [frameCheck, checked, late]

/-! ## Rejected frames (R353) -/

theorem transmitWord_of_frameCheck {x : ResultCode} (init : s.glob.initialised = true)
    (rx : s.rx.step = .idle) (idle : s.txIdle = true) (h : s.frameCheck c q = some x) :
    s.transmitWord c q = s.rejectTx x := by
  simp [transmitWord, init, rx, idle, h]

end State

/-- Settles O27: each check of R352 is reached when those before it pass, and the first that fails
rejects the frame. -/
theorem frameRejected : Obligations.FrameRejected := by
  unfold Obligations.FrameRejected
  intro mod sch dt pwr noadapt imm len s init rx tx pend rejected npc f late lengthOk toneMapOk
  have idle : s.txIdle = true := s.txIdle_iff.mpr ⟨tx, pend⟩
  let q : TxRequest := ⟨mod, sch, dt, pwr, noadapt, imm, len⟩
  have reject {x : ResultCode} (h : s.frameCheck Config.cfg q = some x) : rejected x.code x :=
    congrArg Host.Outcome.next (State.transmitWord_of_frameCheck Config.cfg init rx idle h)
  have timeout (isLate : late) : s.lateStart q = true := (s.lateStart_iff q).mpr isLate
  refine ⟨fun data => ?_, fun control isLate => ?_⟩
  · have noControl : dt.isControl = false := by obtain rfl | rfl := data <;> rfl
    have rejectData {x : ResultCode} (h : s.dataCheck Config.cfg q = some x) :
        rejected x.code x := reject (State.frameCheck_of_dataCheck Config.cfg noControl h)
    have symbols (length : lengthOk) (toneMap : toneMapOk) : s.dataCheck Config.cfg q =
        if npc = 0 then some .invalidTonemap
        else if 511 < f.fl then some .invalidLength
        else none := State.dataCheck_of_toneMap Config.cfg length toneMap
    refine ⟨fun length => ?_, fun length reserved => ?_, fun length toneMap noCarriers => ?_,
      fun length toneMap carriers long => ?_, fun length toneMap carriers short isLate => ?_⟩
    · exact rejectData (State.dataCheck_of_length Config.cfg length)
    · exact rejectData (State.dataCheck_of_reserved Config.cfg length reserved)
    · exact rejectData ((symbols length toneMap).trans (if_pos noCarriers))
    · exact rejectData ((symbols length toneMap).trans ((if_neg carriers).trans (if_pos long)))
    · refine reject (State.frameCheck_of_late Config.cfg (timeout isLate) (.inr ?_))
      exact (symbols length toneMap).trans ((if_neg carriers).trans (if_neg (Nat.not_lt.mpr short)))
  · refine reject (State.frameCheck_of_late Config.cfg (timeout isLate) (.inl ?_))
    obtain rfl | rfl := control <;> rfl

end Sys2Proof.Machine
end

section
/-! PROOF. The dB table and the notch detector (42_noise_notch.md): the table scan finds the largest
index (R218), the fold over the candidates their best (R223), and a flat spectrum has none
(R230). -/

namespace Sys2Proof.Machine

/-! ## The dB table -/

/-- The scan's last entry decides when it is at most `p`. -/
theorem dbOf_concat (lut : List Nat) (v p : Nat) :
    dbOf (lut ++ [v]) p = if v ≤ p then lut.length else dbOf lut p := by
  simp [dbOf, List.zipIdx_append]

/-- A table above `p` gives 0; any other gives the largest index of a value at most `p`. -/
theorem dbOf_cases (lut : List Nat) (p : Nat) :
    (dbOf lut p = 0 ∧ ∀ v ∈ lut, p < v) ∨
      (∃ v, lut[dbOf lut p]? = some v ∧ v ≤ p) ∧
        ∀ i v, lut[i]? = some v → v ≤ p → i ≤ dbOf lut p := by
  induction lut using List.reverseRecOn with
  | nil => exact .inl ⟨rfl, nofun⟩
  | append_singleton lut x ih =>
    rw [dbOf_concat]
    by_cases hx : x ≤ p
    · rw [if_pos hx]
      refine .inr ⟨⟨x, List.getElem?_concat_length, hx⟩, fun i v hi _ => ?_⟩
      have := (List.getElem?_eq_some_iff.mp hi).1
      simp at this
      omega
    · rw [if_neg hx]
      obtain ⟨zero, above⟩ | ⟨⟨v, hv, hle⟩, largest⟩ := ih
      · exact .inl ⟨zero, List.forall_mem_append.mpr ⟨above, by simpa using hx⟩⟩
      · have hlt := (List.getElem?_eq_some_iff.mp hv).1
        refine .inr ⟨⟨v, (List.getElem?_append_left hlt).trans hv, hle⟩, fun i w hi hw => ?_⟩
        by_cases h : i < lut.length
        · exact largest i w ((List.getElem?_append_left h).symm.trans hi) hw
        · rw [List.getElem?_append_right (Nat.not_lt.mp h)] at hi
          simp only [List.mem_singleton.mp (List.mem_of_getElem? hi)] at hw
          exact absurd hw hx

section

variable {lut : List Nat} {p : Nat}

theorem dbOf_lt_length (nonempty : 0 < lut.length) : dbOf lut p < lut.length := by
  obtain ⟨zero, -⟩ | ⟨⟨v, hv, -⟩, -⟩ := dbOf_cases lut p
  · rwa [zero]
  · exact (List.getElem?_eq_some_iff.mp hv).1

theorem dbOf_of_below (below : ∀ v ∈ lut, p < v) : dbOf lut p = 0 := by
  obtain ⟨zero, -⟩ | ⟨⟨v, hv, hle⟩, -⟩ := dbOf_cases lut p
  · exact zero
  · exact absurd (below v (List.mem_of_getElem? hv)) (Nat.not_lt.mpr hle)

variable (nonempty : 0 < lut.length) (reached : lut.getD 0 0 ≤ p)
include nonempty reached

/-- A table whose first value is at most `p` gives the largest index of such a value (R218). -/
theorem dbOf_largest :
    lut.getD (dbOf lut p) 0 ≤ p ∧
      ∀ i, i < lut.length → lut.getD i 0 ≤ p → i ≤ dbOf lut p := by
  have value {i : Nat} (h : i < lut.length) : lut[i]? = some (lut.getD i 0) := by
    rw [List.getD_eq_getElem _ _ h, List.getElem?_eq_getElem h]
  obtain ⟨-, above⟩ | ⟨⟨v, hv, hle⟩, largest⟩ := dbOf_cases lut p
  · exact absurd reached (Nat.not_le.mpr (above _ (List.mem_of_getElem? (value nonempty))))
  · refine ⟨?_, fun i hi => largest i _ (value hi)⟩
    rwa [List.getD_eq_getElem?_getD, hv]

end

/-- Below a sorted table's first value is below the whole table. -/
theorem lt_of_mem_of_pairwise_le {lut : List Nat} {p v : Nat} (sorted : lut.Pairwise (· ≤ ·))
    (below : p < lut.getD 0 0) (mem : v ∈ lut) : p < v := by
  cases lut with
  | nil => cases mem
  | cons x xs =>
    obtain rfl | mem := List.mem_cons.mp mem
    · exact below
    · exact Nat.lt_of_lt_of_le below (List.rel_of_pairwise_cons sorted mem)

/-- R217: the default table's value at i is the least v with `10^i ≤ v^10`. -/
theorem defaultDbLut_ceil : ∀ i < 97,
    10 ^ i ≤ Config.defaultDbLut.getD i 0 ^ 10 ∧
      (Config.defaultDbLut.getD i 0 - 1) ^ 10 < 10 ^ i := by decide

/-- Settles O58: the scan's cases, and the default table's entries as rounded-up powers of ten. -/
theorem decibelTable : Obligations.DecibelTable := by
  unfold Obligations.DecibelTable
  refine ⟨fun lut p len sorted => ?_, fun p pos _ => ?_⟩
  · have nonempty : 0 < lut.length := by omega
    refine ⟨?_, fun below => dbOf_of_below fun v => lt_of_mem_of_pairwise_le sorted below,
      fun reached => ?_⟩
    · have := dbOf_lt_length (p := p) nonempty
      omega
    · obtain ⟨atMost, largest⟩ := dbOf_largest nonempty reached
      exact ⟨atMost, fun i hi => largest i (by omega)⟩
  · have len := Config.defaultDbLut_length
    have nonempty : 0 < Config.defaultDbLut.length := by omega
    obtain ⟨atMost, largest⟩ := dbOf_largest nonempty pos
    have lt := dbOf_lt_length (p := p) nonempty
    refine ⟨?_, fun notLast => ?_⟩
    · exact (defaultDbLut_ceil _ (by omega)).1.trans (Nat.pow_le_pow_left atMost 10)
    · have next : p < Config.defaultDbLut.getD (dbOf Config.defaultDbLut p + 1) 0 :=
        Nat.not_le.mp fun h => by
          have := largest (dbOf Config.defaultDbLut p + 1) (by omega) h
          omega
      exact (Nat.pow_le_pow_left (Nat.le_sub_one_of_lt next) 10).trans_lt
        (defaultDbLut_ceil _ (by omega)).2

/-! ## The selection -/

/-- Carrier `w` is chosen over `i`: a larger dB value, or an equal one at a lower index (R223). -/
abbrev Beats (db : Nat → Nat) (w i : Nat) : Prop := db i < db w ∨ db i = db w ∧ w ≤ i

theorem beats_refl (db : Nat → Nat) (w : Nat) : Beats db w w := .inr ⟨rfl, le_rfl⟩

theorem Beats.antisymm {db : Nat → Nat} {w i : Nat} (h : Beats db w i) (h' : Beats db i w) :
    w = i := by
  unfold Beats at h h'
  omega

theorem better_ne_none (db : Nat → Nat) (best : Option Nat) (i : Nat) :
    better db best i ≠ none := by
  unfold better
  split
  · simp
  · split <;> simp

theorem foldl_better_eq_none_iff (db : Nat → Nat) (l : List Nat) :
    l.foldl (better db) none = none ↔ l = [] := by
  induction l using List.reverseRecOn with
  | nil => simp
  | append_singleton l x => simp [better_ne_none]

/-- A fold over rising carriers ends with one that beats them all. -/
theorem foldl_better_beats {db : Nat → Nat} {l : List Nat} {w : Nat} (sorted : l.Pairwise (· < ·))
    (h : l.foldl (better db) none = some w) : w ∈ l ∧ ∀ i ∈ l, Beats db w i := by
  induction l using List.reverseRecOn generalizing w with
  | nil => cases h
  | append_singleton l x ih =>
    obtain ⟨sorted, -, last⟩ := List.pairwise_append.mp sorted
    rw [List.foldl_concat] at h
    cases before : l.foldl (better db) none with
    | none =>
      obtain rfl := (foldl_better_eq_none_iff db l).mp before
      obtain rfl : x = w := Option.some.inj h
      simp [beats_refl]
    | some v =>
      obtain ⟨mem, best⟩ := ih sorted before
      have hvx : v < x := last v mem x List.mem_cons_self
      rw [before, better] at h
      split at h
      · next larger =>
        obtain rfl : x = w := Option.some.inj h
        refine ⟨by simp, List.forall_mem_append.mpr ⟨fun i hi => ?_, by simp [beats_refl]⟩⟩
        have := best i hi
        unfold Beats at this ⊢
        omega
      · next notLarger =>
        obtain rfl : v = w := Option.some.inj h
        refine ⟨List.mem_append_left _ mem, List.forall_mem_append.mpr ⟨best, ?_⟩⟩
        simp only [List.mem_singleton, forall_eq, Beats]
        omega

section

variable {c : Cfg} {b : Band} {static : Mask} {db : Nat → Nat}

/-- R222's conditions on a carrier of the band. -/
theorem isCandidate_iff {i : Nat} :
    isCandidate c b static db i = true ↔
      static.getLsbD i = false ∧ 1 ≤ i ∧ i + 2 ≤ Config.total b ∧ c.absFloor ≤ db i ∧
        inbandAverage b static db + c.margin ≤ db i ∧
        ((c.derivThr : Int) ≤ secondDiff db 1 i ∨
          2 ≤ i ∧ i + 3 ≤ Config.total b ∧ (c.derivThr : Int) ≤ secondDiff db 2 i) := by
  simp [isCandidate, isolatedSpike, and_assoc]

theorem selectNotch_eq_none_iff :
    selectNotch c b static db = none ↔
      ∀ i, i < Config.total b → isCandidate c b static db i = false := by
  rw [selectNotch, foldl_better_eq_none_iff]
  simp

theorem selectNotch_eq_some_iff {w : Nat} :
    selectNotch c b static db = some w ↔
      (w < Config.total b ∧ isCandidate c b static db w = true) ∧
        ∀ i, i < Config.total b → isCandidate c b static db i = true → Beats db w i := by
  let l := (List.range (Config.total b)).filter (isCandidate c b static db)
  have sorted : l.Pairwise (· < ·) := List.pairwise_lt_range.filter _
  have key : l.foldl (better db) none = some w ↔ w ∈ l ∧ ∀ i ∈ l, Beats db w i := by
    refine ⟨foldl_better_beats sorted, fun ⟨mem, best⟩ => ?_⟩
    cases chosen : l.foldl (better db) none with
    | none => rw [(foldl_better_eq_none_iff db l).mp chosen] at mem; cases mem
    | some v =>
      obtain ⟨memV, bestV⟩ := foldl_better_beats sorted chosen
      rw [(bestV w mem).antisymm (best v memV)]
  simpa only [selectNotch, l, List.mem_filter, List.mem_range, and_imp] using key

end

/-- Settles O59: R222's candidates are those of the filter, and exceedances differ from dB values by
one constant. -/
theorem notchSelection : Obligations.NotchSelection := by
  unfold Obligations.NotchSelection
  intro c b static db inband avg candidate exceedance
  have filtered (i : Nat) :
      candidate i ↔ i < Config.total b ∧ isCandidate c b static db i = true :=
    (and_congr_right fun _ => isCandidate_iff).symm
  have beats (w i : Nat) :
      (exceedance i < exceedance w ∨ exceedance i = exceedance w ∧ w ≤ i) ↔ Beats db w i := by
    simp only [exceedance, Beats]
    omega
  refine ⟨?_, fun w => ?_⟩
  · simp only [selectNotch_eq_none_iff, filtered, not_and, Bool.not_eq_true]
  · simp only [selectNotch_eq_some_iff, filtered, beats, and_imp]

/-! ## The flat spectrum -/

/-- On a flat spectrum the second differences are 0. -/
theorem secondDiff_of_flat {b : Band} {db : Nat → Nat} {d k i : Nat}
    (flat : ∀ i, i < Config.total b → db i = d) (inner : i + k < Config.total b) :
    secondDiff db k i = 0 := by
  rw [secondDiff, flat i (by omega), flat (i - k) (by omega), flat (i + k) inner]
  omega

/-- Settles O60: on a flat spectrum neither second difference reaches the threshold. -/
theorem flatSpectrumNotNotched : Obligations.FlatSpectrumNotNotched := by
  unfold Obligations.FlatSpectrumNotNotched
  intro c b static db d valid flat
  obtain ⟨-, -, -, ⟨-, threshold⟩, -⟩ := valid
  have no_spike {k i : Nat} (inner : i + k < Config.total b) :
      ¬(c.derivThr : Int) ≤ secondDiff db k i := by
    rw [secondDiff_of_flat flat inner]
    omega
  refine selectNotch_eq_none_iff.mpr fun i _ => Bool.eq_false_iff.mpr fun h => ?_
  obtain ⟨-, -, inner, -, -, spike | ⟨-, inner2, spike⟩⟩ := isCandidate_iff.mp h
  · exact no_spike inner spike
  · exact no_spike inner2 spike

end Sys2Proof.Machine
end

section
/-! PROOF. The noise controller's events (42_noise_notch.md): what PROCESS, AGC_DONE and
CAPTURE_DONE do in each of its states. -/

namespace Sys2Proof.Machine

/-- An EV_IRQ word of one source of an initialised block is that source's handler (R407). -/
theorem exec_evIrq_single (q : IrqSource) (txok rxok : Bool) {s : State}
    (init : s.glob.initialised = true) (pend : s.irqPending = 0#9) :
    exec (.evIrq (BitVec.twoPow 9 q.bit) txok rxok) s =
      .next ((s.withResult 0#32).handle Config.cfg txok rxok q) :=
  congrArg Host.Outcome.next (irqWord_single Config.cfg txok rxok q init pend)

/-! ## The parts of the state that a pass leaves alone -/

namespace State

variable (s : State)

@[simp] theorem accumulate_glob : s.accumulate.glob = s.glob := by rw [accumulate]
@[simp] theorem accumulate_mem : s.accumulate.mem = s.mem := by rw [accumulate]
@[simp] theorem accumulate_irqPending : s.accumulate.irqPending = s.irqPending := by
  rw [accumulate]
@[simp] theorem accumulate_feOut : s.accumulate.feOut = s.feOut := by rw [accumulate]

variable (step : NoiseStep) (k idx : Nat)

@[simp] theorem enterPass_glob : (s.enterPass step k idx).glob = s.glob := rfl
@[simp] theorem enterPass_mem : (s.enterPass step k idx).mem = s.mem := rfl
@[simp] theorem enterPass_irqPending : (s.enterPass step k idx).irqPending = s.irqPending := rfl
@[simp] theorem enterPass_noise : (s.enterPass step k idx).noise =
    { s.noise with step := step, k := BitVec.ofNat 8 k } := rfl
@[simp] theorem enterPass_feOut : (s.enterPass step k idx).feOut = s.feOut ++ [.capturePass idx] :=
  rfl

end State

/-! ## The start of a capture -/

section

variable {s : State}

/-- The conditions of R211 start a capture. -/
theorem noiseTrigger_of_due (noise : s.noise.step = .idle) (tx : s.txIdle = true)
    (rx : s.rx.step = .idle) (due : 0 ≤ (s.glob.timeMs - s.glob.noiseDueMs).toInt) :
    s.noiseTrigger = s.startCapture := if_pos ⟨noise, tx, rx, due⟩

/-- With TX and RX idle, stage 3 is the only one that does anything at PROCESS. -/
theorem processWord_of_idle (c : Cfg) (init : s.glob.initialised = true) (pend : s.tx.pend = none)
    (tx : s.tx.step = .idle) (rx : s.rx.step = .idle) :
    s.processWord c = s.noiseTrigger.setResult .success := by
  have frame : s.noiseTrigger.tx = s.tx ∧ s.noiseTrigger.rx = s.rx := by
    obtain ⟨noise, due, fe, e⟩ := noiseTrigger_change s
    rw [e]
    exact ⟨rfl, rfl⟩
  obtain ⟨sameTx, sameRx⟩ := frame
  have stages : s.processStages c = s.noiseTrigger := by
    rw [processStages_of_pend_none c pend, rxDeferred_of_idle c rx,
      watchdogs_of_not_busy_not_receiving c (by rw [sameTx, tx]; rfl) (by rw [sameRx, rx]; rfl)]
  rw [processWord_of_initialised c init, stages, State.processResult, if_neg (by simp [sameRx, rx])]

/-! ## AGC_DONE and CAPTURE_DONE -/

theorem agcDone_of_adaptGain (h : s.noise.step = .adaptGain) :
    s.agcDone = { s with noise := { s.noise with step := .firstPass } }.emitFe (.capturePass 1) :=
  if_pos h

theorem agcDone_of_ne_adaptGain (h : s.noise.step ≠ .adaptGain) : s.agcDone = s := if_neg h

variable (c : Cfg)

theorem captureDone_of_no_pass (h : s.noise.step = .idle ∨ s.noise.step = .adaptGain) :
    s.captureDone c = s := by
  obtain h | h := h <;> simp only [State.captureDone, h]

/-- In a pass, CAPTURE_DONE accumulates and goes on (R214). -/
theorem captureDone_of_pass (idle : s.noise.step ≠ .idle) (adapt : s.noise.step ≠ .adaptGain) :
    s.captureDone c = s.accumulate.nextPass c := by
  unfold State.captureDone
  split
  · exact absurd ‹_› idle
  · exact absurd ‹_› adapt
  all_goals rfl

section
variable (step : s.noise.step = .firstPass)
include step

theorem captureDone_of_first_more (more : 1 ≤ c.nint s.glob.band) :
    s.captureDone c = s.accumulate.enterPass .intermediatePass 1 2 := by
  rw [captureDone_of_pass c (by simp [step]) (by simp [step])]
  simp only [State.nextPass, State.accumulate, step, if_pos more]

theorem captureDone_of_first_last (last : c.nint s.glob.band = 0) :
    s.captureDone c = s.accumulate.enterPass .secondPass 0 (c.nint s.glob.band + 2) := by
  rw [captureDone_of_pass c (by simp [step]) (by simp [step])]
  simp only [State.nextPass, State.accumulate, step, if_neg (show ¬1 ≤ c.nint s.glob.band by omega)]

end

section
variable (step : s.noise.step = .intermediatePass)
include step

theorem captureDone_of_intermediate_more (more : s.noise.k.toNat < c.nint s.glob.band) :
    s.captureDone c = s.accumulate.enterPass .intermediatePass (s.noise.k.toNat + 1)
      (s.noise.k.toNat + 2) := by
  rw [captureDone_of_pass c (by simp [step]) (by simp [step]),
    show s.noise.k.toNat + 2 = 1 + (s.noise.k.toNat + 1) by omega]
  simp only [State.nextPass, State.accumulate, step, if_pos more]

theorem captureDone_of_intermediate_last (last : c.nint s.glob.band ≤ s.noise.k.toNat) :
    s.captureDone c = s.accumulate.enterPass .secondPass 0 (c.nint s.glob.band + 2) := by
  rw [captureDone_of_pass c (by simp [step]) (by simp [step])]
  simp only [State.nextPass, State.accumulate, step, if_neg (Nat.not_lt.mpr last)]

end

theorem captureDone_of_second (step : s.noise.step = .secondPass) :
    s.captureDone c = s.accumulate.finishCapture c := by
  rw [captureDone_of_pass c (by simp [step]) (by simp [step])]
  simp only [State.nextPass, State.accumulate, step]

end

/-- What a finished capture leaves (R216, R224). -/
theorem finishCapture_eq (c : Cfg) (s : State) :
    s.finishCapture c = { s with
      noise :=
        { step := .idle
          k := 0#8
          acc := s.noise.acc
          power := (s.storeMeans c).noise.power
          notchCarrier := match (s.storeMeans c).winner c with
            | some w => BitVec.ofNat 8 w
            | none => if s.noise.notchActive then 0#8 else s.noise.notchCarrier
          notchActive := ((s.storeMeans c).winner c).isSome }
      feOut := s.feOut ++ (match (s.storeMeans c).winner c with
        | some w => [.notchSet (BitVec.ofNat 8 w)]
        | none => if s.noise.notchActive then [.notchClear] else []) } := by
  rw [State.finishCapture]
  cases (s.storeMeans c).winner c with
  | some w => simp [State.applyNotch, State.storeMeans, State.stopCapture]
  | none =>
    cases active : s.noise.notchActive with
    | true => simp [State.applyNotch, State.storeMeans, State.stopCapture, active]
    | false => simp [State.applyNotch, State.storeMeans, State.stopCapture, active]

/-- Settles O55: R211's conditions, and the events outside the states they act in. -/
theorem captureStarts : Obligations.CaptureStarts := by
  unfold Obligations.CaptureStarts
  intro s init
  refine ⟨fun pend tx rx noise due => ?_, fun txok rxok irq => ⟨fun adapt => ?_, fun other => ?_,
    fun early => ?_⟩⟩
  · rw [exec_process, processWord_of_idle Config.cfg init pend tx rx,
      noiseTrigger_of_due noise (s.txIdle_iff.mpr ⟨tx, pend⟩) rx due]
    rfl
  · exact (exec_evIrq_single .agcDone txok rxok init irq).trans
      (congrArg _ (agcDone_of_adaptGain (s := s.withResult 0#32) adapt))
  · exact (exec_evIrq_single .agcDone txok rxok init irq).trans
      (congrArg _ (agcDone_of_ne_adaptGain (s := s.withResult 0#32) other))
  · exact (exec_evIrq_single .captureDone txok rxok init irq).trans
      (congrArg _ (captureDone_of_no_pass (s := s.withResult 0#32) Config.cfg early))

/-- The accumulation of R214 over the bytes of CAPMEM. -/
theorem accumulate_eq (s : State) :
    s.accumulate = { s with noise := { s.noise with
      acc := Vector.ofFn fun i : Fin 128 =>
        if i.val < Config.total s.glob.band then
          BitVec.ofNat 32
            (min (s.noise.acc[i.val].toNat +
              (wordOfBytes (s.mem.readBytes (0x500 + 4 * i.val) 4)).toNat) (2 ^ 32 - 1))
        else s.noise.acc[i.val] } } := by
  simp only [State.accumulate, sat32, State.capmem, capmemBase]

/-- Settles O56: the event's case of each pass. -/
theorem captureDone : Obligations.CaptureDone := by
  unfold Obligations.CaptureDone
  refine ⟨fun _ _ _ => rfl, fun c s txok rxok init irq => ?_⟩
  intro done nint acc pass
  have event : done = (s.withResult 0#32).captureDone c :=
    irqWord_single c txok rxok .captureDone init irq
  have accumulated : (s.withResult 0#32).accumulate =
    { s.withResult 0#32 with noise := { s.noise with acc := acc } } := accumulate_eq _
  have enters {step : NoiseStep} {k idx : Nat} (h : (s.withResult 0#32).captureDone c =
      (s.withResult 0#32).accumulate.enterPass step k idx) : pass step k idx :=
    event.trans (h.trans (congrArg (State.enterPass · step k idx) accumulated))
  refine ⟨fun first => ⟨fun more => ?_, fun last => ?_⟩,
    fun inter => ⟨fun more => ?_, fun last => ?_⟩, fun second => ?_⟩
  · exact enters (captureDone_of_first_more c first more)
  · exact enters (captureDone_of_first_last c first last)
  · exact enters (captureDone_of_intermediate_more c inter more)
  · exact enters (captureDone_of_intermediate_last c inter last)
  · intro power winner
    rw [event, captureDone_of_second (s := s.withResult 0#32) c second, finishCapture_eq,
      accumulated]
    rfl

end Sys2Proof.Machine
end

section
/-! PROOF. A whole noise capture (R213 to R216): what holds after AGC_DONE and some CAPTURE_DONE
events, kept by each event up to the last pass. -/

namespace Sys2Proof.Machine

/-! ## The passes -/

/-- The controller is in pass `p` of the NINT + 2 passes of a capture (R215). -/
inductive NoiseUnit.InPass (nint p : Nat) (n : NoiseUnit) : Prop
  | first (step : n.step = .firstPass) (number : p = 1)
  | intermediate (step : n.step = .intermediatePass) (number : p = n.k.toNat + 1)
      (pos : 1 ≤ n.k.toNat) (within : n.k.toNat ≤ nint)
  | second (step : n.step = .secondPass) (number : p = nint + 2)

theorem NoiseUnit.InPass.under_way {nint p : Nat} {n : NoiseUnit} (h : n.InPass nint p) :
    n.step ≠ .idle ∧ n.step ≠ .adaptGain := by
  obtain ⟨step, -⟩ | ⟨step, -, -, -⟩ | ⟨step, -⟩ := h <;> simp [step]

section

variable {c : Cfg} {s : State} {p : Nat} (h : s.noise.InPass (c.nint s.glob.band) p)
include h

/-- Before the last pass, CAPTURE_DONE accumulates and asks for the next one. -/
theorem captureDone_enters_next_pass (fits : c.nint s.glob.band ≤ 255)
    (more : p < c.nint s.glob.band + 2) :
    ∃ step k, s.captureDone c = s.accumulate.enterPass step k (p + 1) ∧
      { s.accumulate.noise with step := step, k := BitVec.ofNat 8 k }.InPass
        (c.nint s.glob.band) (p + 1) := by
  obtain ⟨step, rfl⟩ | ⟨step, rfl, pos, within⟩ | ⟨-, rfl⟩ := h
  · obtain zero | pos := Nat.eq_zero_or_pos (c.nint s.glob.band)
    · exact ⟨_, _, by rw [captureDone_of_first_last c step zero, zero], .second rfl (by omega)⟩
    · exact ⟨_, _, captureDone_of_first_more c step pos, .intermediate rfl rfl le_rfl pos⟩
  · obtain more | last := Nat.lt_or_ge s.noise.k.toNat (c.nint s.glob.band)
    · have fitsByte : (BitVec.ofNat 8 (s.noise.k.toNat + 1)).toNat = s.noise.k.toNat + 1 :=
        Nat.mod_eq_of_lt (by omega)
      exact ⟨_, _, captureDone_of_intermediate_more c step more,
        .intermediate rfl (by rw [fitsByte]) (by rw [fitsByte]; omega) (by rw [fitsByte]; omega)⟩
    · have number : s.noise.k.toNat + 1 + 1 = c.nint s.glob.band + 2 := by omega
      exact ⟨_, _, by rw [captureDone_of_intermediate_last c step last, number],
        .second rfl number⟩
  · exact absurd more (Nat.lt_irrefl _)

/-- In the last pass, CAPTURE_DONE accumulates and finishes the capture. -/
theorem captureDone_finishes (last : p = c.nint s.glob.band + 2) :
    s.captureDone c = s.accumulate.finishCapture c := by
  obtain ⟨-, number⟩ | ⟨-, number, -, within⟩ | ⟨step, -⟩ := h
  · omega
  · omega
  · exact captureDone_of_second c step

end

/-! ## The invariant of a capture -/

/-- Carrier i's accumulated power after `n` passes over the CAPMEM of `s`, saturating (R214). -/
def State.accumulated (s : State) (n : Nat) (i : Fin 128) : Nat :=
  min (s.noise.acc[i.val].toNat + n * (s.capmem i.val).toNat) (2 ^ 32 - 1)

/-- A pass over words that stay the same adds them once more. -/
theorem accumulate_acc_toNat {s u : State} {n : Nat} {i : Fin 128} (mem : u.mem = s.mem)
    (inBand : i.val < Config.total u.glob.band)
    (acc : u.noise.acc[i.val].toNat = s.accumulated n i) :
    u.accumulate.noise.acc[i.val].toNat = s.accumulated (n + 1) i := by
  have same : u.capmem i.val = s.capmem i.val := by rw [State.capmem, State.capmem, mem]
  simp only [State.accumulate, Vector.getElem_ofFn, if_pos inBand, sat32_toNat, acc, same,
    State.accumulated, Nat.succ_mul]
  omega

/-- `u` is the state a capture of `s`, which waited for AGC_DONE, has reached after AGC_DONE and `j`
CAPTURE_DONE events: pass j + 1 is under way, and the passes before it are accumulated. -/
structure CaptureAfter (c : Cfg) (s : State) (j : Nat) (u : State) : Prop where
  glob : u.glob = s.glob
  mem : u.mem = s.mem
  pending : u.irqPending = s.irqPending
  pass : u.noise.InPass (c.nint s.glob.band) (j + 1)
  acc : ∀ i : Fin 128, i.val < Config.total s.glob.band →
    u.noise.acc[i.val].toNat = s.accumulated j i
  feOut : u.feOut = s.feOut ++ (List.range (j + 1)).map fun i => .capturePass (i + 1)

section

variable {c : Cfg} {s u : State} {j : Nat}

theorem CaptureAfter.withResult (h : CaptureAfter c s j u) (v : Word) :
    CaptureAfter c s j (u.withResult v) :=
  ⟨h.glob, h.mem, h.pending, h.pass, h.acc, h.feOut⟩

theorem captureAfter_agcDone (v : Word) (adapt : s.noise.step = .adaptGain) :
    CaptureAfter c s 0 (s.withResult v).agcDone := by
  rw [agcDone_of_adaptGain (s := s.withResult v) adapt]
  refine ⟨rfl, rfl, rfl, .first rfl rfl, fun i _ => ?_, rfl⟩
  have := s.noise.acc[i.val].isLt
  simp only [State.emitFe_noise, State.accumulated]
  omega

/-- One more pass keeps the invariant. -/
theorem CaptureAfter.captureDone (h : CaptureAfter c s j u) (fits : c.nint s.glob.band ≤ 255)
    (more : j + 1 < c.nint s.glob.band + 2) : CaptureAfter c s (j + 1) (u.captureDone c) := by
  obtain ⟨glob, mem, pending, pass, acc, feOut⟩ := h
  rw [← glob] at fits more pass
  obtain ⟨step, k, e, next⟩ := captureDone_enters_next_pass pass fits more
  rw [e]
  refine ⟨by simpa using glob, by simpa using mem, by simpa using pending, ?_, fun i hi => ?_, ?_⟩
  · rwa [State.enterPass_noise, ← glob]
  · rw [State.enterPass_noise]
    exact accumulate_acc_toNat mem (by rwa [glob]) (acc i hi)
  · rw [State.enterPass_feOut, State.accumulate_feOut, feOut, List.range_succ (n := j + 1),
      List.map_append, List.append_assoc]
    rfl

/-- The last pass leaves the means of the accumulated powers. -/
theorem CaptureAfter.finish (h : CaptureAfter c s j u) (last : j + 1 = c.nint s.glob.band + 2) :
    (u.captureDone c).noise.step = .idle ∧ (u.captureDone c).noise.k = 0#8 ∧
      u.feOut <+: (u.captureDone c).feOut ∧
      ∀ i : Fin 128, i.val < Config.total s.glob.band →
        (u.captureDone c).noise.power[i.val] =
          BitVec.ofNat 32 (s.accumulated (j + 1) i / (8 * (j + 1))) := by
  obtain ⟨glob, mem, -, pass, acc, -⟩ := h
  rw [← glob] at pass last
  rw [captureDone_finishes pass last, finishCapture_eq]
  refine ⟨rfl, rfl, by simp, fun i hi => ?_⟩
  have total : i.val < Config.total u.glob.band := by rwa [glob]
  have mean : (u.accumulate.storeMeans c).noise.power[i.val] =
      meanPower c u.glob.band u.accumulate.noise.acc[i.val] := by
    simp [State.storeMeans, total]
  rw [mean, meanPower, accumulate_acc_toNat mem total (acc i hi), last]
  rfl

end

/-! ## The run -/

/-- A word run after others. -/
theorem execAll_concat {is : List Instr} {i : Instr} {s t u : State}
    (run : execAll is s = .next t) (last : exec i t = .next u) :
    execAll (is ++ [i]) s = .next u := by
  simp only [execAll_append, run, execAll, last]

section

variable {s : State} (init : s.glob.initialised = true) (pend : s.irqPending = 0#9)
include init pend

/-- The word CAPTURE_DONE at a state that a capture has reached. -/
theorem CaptureAfter.exec_captureDone {c : Cfg} {u : State} {j : Nat} (h : CaptureAfter c s j u) :
    exec (irq .captureDone) u = .next ((u.withResult 0#32).captureDone Config.cfg) :=
  exec_evIrq_single .captureDone true true (by rw [h.glob, init]) (by rw [h.pending, pend])

/-- The words AGC_DONE and, fewer than NINT + 2 times, CAPTURE_DONE. -/
theorem captureRun_under_way (adapt : s.noise.step = .adaptGain) {k : Nat}
    (more : k < Config.cfg.nint s.glob.band + 2) :
    ∃ u, execAll (irq .agcDone :: List.replicate k (irq .captureDone)) s = .next u ∧
      CaptureAfter Config.cfg s k u := by
  induction k with
  | zero =>
    refine ⟨(s.withResult 0#32).agcDone, ?_, ?_⟩
    · exact execAll_concat (is := []) rfl (exec_evIrq_single .agcDone true true init pend)
    · exact captureAfter_agcDone 0#32 adapt
  | succ k ih =>
    obtain ⟨u, run, reached⟩ := ih (by omega)
    rw [List.replicate_succ', ← List.cons_append]
    exact ⟨_, execAll_concat run (reached.exec_captureDone init pend),
      (reached.withResult 0#32).captureDone (Config.cfg_nint _).1 more⟩

end

/-- Settles O57: the run up to the last pass, and the event that finishes it. -/
theorem captureRunsToFinish : Obligations.CaptureRunsToFinish := by
  unfold Obligations.CaptureRunsToFinish
  intro s init pend adapt n run
  refine ⟨fun k more => ?_, ?_⟩
  · obtain ⟨u, ran, reached⟩ := captureRun_under_way init pend adapt more
    exact ⟨u, ran, reached.pass.under_way⟩
  · obtain ⟨u, ran, reached⟩ := captureRun_under_way init pend adapt
      (k := Config.cfg.nint s.glob.band + 1) (by omega)
    obtain ⟨idle, k, grows, power⟩ := (reached.withResult 0#32).finish rfl
    refine ⟨(u.withResult 0#32).captureDone Config.cfg, ?_, idle, k, ?_, power⟩
    · have last := execAll_concat ran (reached.exec_captureDone init pend)
      rwa [List.cons_append, ← List.replicate_succ'] at last
    · rw [← reached.feOut]
      exact grows

end Sys2Proof.Machine
end

section
/-! PROOF. CS_PEAK (R277, R278, R225, R301, R302): the three machines one after the other (R408). -/

namespace Sys2Proof.Machine

theorem TxStep.prePayload_iff (t : TxStep) : t.prePayload = true ↔
    t ∈ [.preambleFirst, .preambleLast, .headerFirst, .header, .cohSync] := by
  cases t <;> decide

theorem TxStep.inPayload_iff (t : TxStep) : t.inPayload = true ↔
    t ∈ [.payloadFirst, .payload, .payloadLast, .endSymbol] := by
  cases t <;> decide

theorem TxStep.not_busy_iff (t : TxStep) :
    t.prePayload = false ∧ t.inPayload = false ↔ t ∈ [.idle, .cancelled] := by
  cases t <;> decide

theorem TxStep.not_inPayload_of_prePayload {t : TxStep} (h : t.prePayload = true) :
    t.inPayload = false := by
  revert h
  cases t <;> decide

section

variable {s : State}

theorem csPeak_of_inPayload (h : s.tx.step.inPayload = true) : s.csPeak = s := if_pos h

theorem csPeak_of_prePayload (h : s.tx.step.prePayload = true) :
    s.csPeak = s.cancelFrame.abortCapture.rxArm := by
  simp [State.csPeak, h, TxStep.not_inPayload_of_prePayload h]

theorem csPeak_of_not_busy (h : s.tx.step.prePayload = false ∧ s.tx.step.inPayload = false) :
    s.csPeak = s.abortCapture.rxArm := by
  simp [State.csPeak, h]

/-- A running capture is given up, and an idle controller is left alone (R225). -/
theorem abortCapture_eq (s : State) :
    s.abortCapture = { s with
      noise :=
        if s.noise.step = .idle then s.noise else { s.noise with step := .idle, k := 0#8 }
      feOut := s.feOut ++ if s.noise.step = .idle then [] else [FeRecord.captureAbort] } := by
  unfold State.abortCapture
  split
  · rw [List.append_nil]
  · rfl

/-- An idle receiver is armed (R301). -/
theorem abortCapture_rxArm_of_idle (h : s.rx.step = .idle) :
    s.abortCapture.rxArm =
      (s.abortCapture.rxEnter .peak1 (.fresh s.glob.timeMs)).emitFe .rxArm := by
  rw [abortCapture_eq]
  exact if_pos h

/-- A running reception is left alone (R302). -/
theorem abortCapture_rxArm_of_not_idle (h : s.rx.step ≠ .idle) :
    s.abortCapture.rxArm = s.abortCapture := by
  rw [abortCapture_eq]
  exact if_neg h

end

/-- Settles O42: TX, then the noise controller, then RX (R408), each by its own case. -/
theorem csPeak : Obligations.CsPeak := by
  unfold Obligations.CsPeak
  intro s txok rxok init irq peak noise captureAbort
  have event : peak = .next (s.withResult 0#32).csPeak :=
    exec_evIrq_single .csPeak txok rxok init irq
  refine ⟨fun pre rx => ⟨.fresh s.glob.timeMs, rfl, ?_⟩, fun pay => ?_,
    fun quiet rx => ⟨.fresh s.glob.timeMs, rfl, ?_⟩, fun quiet rx => ?_⟩
  · have cancels := csPeak_of_prePayload (s := s.withResult 0#32)
      ((TxStep.prePayload_iff _).mpr pre)
    rw [event, cancels, abortCapture_rxArm_of_idle (s := (s.withResult 0#32).cancelFrame) rx,
      abortCapture_eq]
    rfl
  · exact event.trans (congrArg _ (csPeak_of_inPayload (s := s.withResult 0#32)
      ((TxStep.inPayload_iff _).mpr pay)))
  · rw [event, csPeak_of_not_busy (s := s.withResult 0#32) ((TxStep.not_busy_iff _).mpr quiet),
      abortCapture_rxArm_of_idle (s := s.withResult 0#32) rx, abortCapture_eq]
    rfl
  · rw [event, csPeak_of_not_busy (s := s.withResult 0#32) ((TxStep.not_busy_iff _).mpr quiet),
      abortCapture_rxArm_of_not_idle (s := s.withResult 0#32) rx, abortCapture_eq]

end Sys2Proof.Machine
end

section
/-! PROOF. The gain/impedance controller (43_gain_impedance.md): what one call can do, its run at
PROCESS, and the gain bounds. -/

namespace Sys2Proof.Machine

/-! ## Table 00-1 -/

/-- A gain step that an impedance state admits (R243, R362). -/
abbrev GainFits (c : Cfg) (i : ImpState) (g : Nat) : Prop := c.gmin i ≤ g ∧ g ≤ c.gmax i

theorem gainFits_ginit {c : Cfg} (valid : c.Valid) (i : ImpState) : GainFits c i (c.ginit i) := by
  obtain ⟨-, -, -, -, -, gains, -⟩ := valid
  obtain ⟨low, high, -⟩ := gains i (Config.mem_impStates i)
  exact ⟨low, high⟩

/-- A gain step that fits survives the register's 8 bits. -/
theorem GainFits.toNat_ofNat {c : Cfg} {i : ImpState} {g : Nat} (fits : GainFits c i g)
    (valid : c.Valid) : (BitVec.ofNat 8 g).toNat = g := by
  obtain ⟨-, -, -, -, -, gains, -⟩ := valid
  obtain ⟨-, -, byte⟩ := gains i (Config.mem_impStates i)
  rw [BitVec.toNat_ofNat, Nat.mod_eq_of_lt (by omega)]

/-! ## Transitions (R241) -/

section

variable {c : Cfg} {b : Band} {s : ImpState} {p rms g : Nat} {auto : Bool}

theorem nextImp_of_manual : nextImp c b s p rms false = s := if_pos rfl

@[simp] theorem nextImp_high : nextImp c b .high p rms true =
    if rms < c.tHL b p then .low else .high := rfl

@[simp] theorem nextImp_low : nextImp c b .low p rms true =
    if c.tLH b p < rms then .high else if rms < c.tLV b p then .vlo else .low := rfl

@[simp] theorem nextImp_vlo : nextImp c b .vlo p rms true =
    if c.tVL b p < rms then .low else .vlo := rfl

/-- The four arrows of R241, each with its comparison. -/
inductive ImpMove (c : Cfg) (b : Band) (p rms : Nat) : ImpState → ImpState → Prop
  | highToLow (h : rms < c.tHL b p) : ImpMove c b p rms .high .low
  | lowToHigh (h : c.tLH b p < rms) : ImpMove c b p rms .low .high
  | lowToVlo (h : rms < c.tLV b p) : ImpMove c b p rms .low .vlo
  | vloToLow (h : c.tVL b p < rms) : ImpMove c b p rms .vlo .low

/-- Under auto-detect a call keeps the state or takes one of the arrows. -/
theorem nextImp_auto_cases (c : Cfg) (b : Band) (s : ImpState) (p rms : Nat) :
    nextImp c b s p rms true = s ∨ ImpMove c b p rms s (nextImp c b s p rms true) := by
  cases s with
  | high =>
    rw [nextImp_high]
    split
    · next below => exact .inr (.highToLow below)
    · exact .inl rfl
  | low =>
    rw [nextImp_low]
    split
    · next above => exact .inr (.lowToHigh above)
    · split
      · next below => exact .inr (.lowToVlo below)
      · exact .inl rfl
  | vlo =>
    rw [nextImp_vlo]
    split
    · next above => exact .inr (.vloToLow above)
    · exact .inl rfl

theorem impMove_of_changed (changed : nextImp c b s p rms auto ≠ s) :
    ImpMove c b p rms s (nextImp c b s p rms auto) := by
  cases auto with
  | false => exact absurd nextImp_of_manual changed
  | true => exact (nextImp_auto_cases c b s p rms).resolve_left changed

theorem ImpMove.low_end {t : ImpState} (move : ImpMove c b p rms s t) : s = .low ∨ t = .low := by
  cases move with
  | highToLow | vloToLow => exact .inr rfl
  | lowToHigh | lowToVlo => exact .inl rfl

/-- The thresholds of an arrow and of its reverse lie apart, so no RMS takes both. -/
theorem ImpMove.not_reversed {t : ImpState} (move : ImpMove c b p rms s t) (valid : c.Valid)
    (level : p < 16) : ¬ImpMove c b p rms t s := by
  obtain ⟨-, -, -, -, thresholds, -, -⟩ := valid
  have apart := thresholds b (Config.mem_bands b) p level
  intro back
  cases move <;> cases back <;> omega

theorem ImpMove.no_return {t : ImpState} (move : ImpMove c b p rms s t) (valid : c.Valid)
    (level : p < 16) : nextImp c b t p rms auto ≠ s := by
  intro returned
  have leaves : s ≠ t := by cases move <;> decide
  have back := impMove_of_changed (auto := auto) (s := t) (returned ▸ leaves)
  exact move.not_reversed valid level (returned ▸ back)

/-! ## Tracking (R243) -/

theorem trackGain_of_above (h : c.target b s p + c.tol < rms) :
    trackGain c b s p rms g = max (g - 1) (c.gmin s) := if_pos h

theorem trackGain_of_below (h : rms + c.tol < c.target b s p) :
    trackGain c b s p rms g = min (g + 1) (c.gmax s) := by
  rw [trackGain, if_neg (by omega), if_pos h]

theorem trackGain_of_within (notAbove : rms ≤ c.target b s p + c.tol)
    (notBelow : c.target b s p ≤ rms + c.tol) : trackGain c b s p rms g = g := by
  rw [trackGain, if_neg (by omega), if_neg (by omega)]

/-- Tracking stays within the state's bounds and moves by one step at most. -/
theorem trackGain_bounds (fits : GainFits c s g) :
    GainFits c s (trackGain c b s p rms g) ∧
      trackGain c b s p rms g ≤ g + 1 ∧ g ≤ trackGain c b s p rms g + 1 := by
  unfold trackGain
  split
  · omega
  · split <;> omega

/-! ## One call (R240, R242) -/

theorem gainControl_of_unchanged (h : nextImp c b s p rms auto = s) :
    gainControl c b s p rms g auto = (s, trackGain c b s p rms g) := if_pos h

theorem gainControl_of_changed (h : nextImp c b s p rms auto ≠ s) :
    gainControl c b s p rms g auto =
      (nextImp c b s p rms auto, c.ginit (nextImp c b s p rms auto)) := if_neg h

@[simp] theorem gainControl_fst :
    (gainControl c b s p rms g auto).1 = nextImp c b s p rms auto := by
  by_cases h : nextImp c b s p rms auto = s
  · rw [gainControl_of_unchanged h, h]
  · rw [gainControl_of_changed h]

/-- A call leaves a gain step that fits the state it leaves. -/
theorem gainControl_fits (valid : c.Valid) (fits : GainFits c s g) :
    GainFits c (gainControl c b s p rms g auto).1 (gainControl c b s p rms g auto).2 := by
  by_cases h : nextImp c b s p rms auto = s
  · rw [gainControl_of_unchanged h]
    exact (trackGain_bounds fits).1
  · rw [gainControl_of_changed h]
    exact gainFits_ginit valid _

end

/-- Settles O54: the transitions, then the gain where the state is unchanged and where it is not. -/
theorem gainHysteresis : Obligations.GainHysteresis := by
  unfold Obligations.GainHysteresis
  intro c b s p rms g auto valid level low high r
  have state : r.1 = nextImp c b s p rms auto := gainControl_fst
  have tracked (kept : r.1 = s) : r.2 = trackGain c b s p rms g :=
    congrArg Prod.snd (gainControl_of_unchanged (state ▸ kept))
  refine ⟨?_, ?_, fun kept => ?_, fun changed => ?_, fun kept => ?_⟩
  · rintro rfl
    exact state.trans nextImp_of_manual
  · rintro rfl
    rw [state]
    cases s <;> rfl
  · rw [tracked kept]
    exact ⟨trackGain_of_above, trackGain_of_below, trackGain_of_within⟩
  · have changes : nextImp c b s p rms auto ≠ s := state ▸ changed
    have move := impMove_of_changed changes
    have entered : r.2 = c.ginit (nextImp c b s p rms auto) :=
      congrArg Prod.snd (gainControl_of_changed changes)
    rw [state, gainControl_fst]
    exact ⟨entered, move.no_return valid level, move.low_end⟩
  · rw [tracked kept]
    obtain ⟨⟨lowest, highest⟩, up, down⟩ := trackGain_bounds (fits := ⟨low, high⟩)
    exact ⟨lowest, highest, up, down⟩

/-! ## The gain bounds over every step -/

/-- An IMPEDANCE value that is taken carries a gain within the bounds of its state (R362). -/
theorem impedanceOverride_fits {c : Cfg} {v : Word} {i : ImpState}
    (h : impedanceOverride c v = some i) : GainFits c i (v.extractLsb' 8 8).toNat := by
  unfold impedanceOverride at h
  split at h
  · cases h
  · split at h
    · cases h
    · next valid =>
      cases h
      simp only [not_or, not_lt] at valid
      exact valid.2

theorem setImpedance_gainInBounds {c : Cfg} {s : State} (v : Word) (hs : s.GainInBounds c) :
    (s.setImpedance c v).GainInBounds c := by
  unfold State.setImpedance
  split
  · exact hs
  · split
    · exact hs
    · next i taken =>
      split
      · exact hs
      · exact impedanceOverride_fits taken

/-- The four writers of ImpedanceState (R245): the reset and the controller's initial gain are
GINIT, the controller tracks within the bounds, and the override is checked against them. -/
theorem exec_gainInBounds {i : Instr} {s t : State} (hs : s.GainInBounds Config.cfg)
    (h : exec i s = .next t) : t.GainInBounds Config.cfg := by
  obtain ⟨-, kept | ⟨fresh, -⟩ | ⟨rfl, -⟩ | ⟨-, p, -, -, -, -, -, ran⟩⟩ := impedanceWriters i s t h
  · rw [State.GainInBounds, kept]
    exact hs
  · rw [State.GainInBounds, fresh]
    exact reset_gainInBounds
  · cases h
    exact setImpedance_gainInBounds s.win.paramData hs
  · obtain ⟨coupling, gain⟩ := Prod.mk.inj ran
    have fits := gainControl_fits (b := s.glob.band) (p := p.pwr.toNat) (rms := p.rms.toNat)
      (auto := s.imp.autoDetect) Config.cfg_valid hs
    rw [State.GainInBounds, coupling, gain, fits.toNat_ofNat Config.cfg_valid]
    exact fits

/-- Settles O16: the bounds read ImpedanceState only, and every word keeps them. -/
theorem gainBoundsKept : Obligations.GainBoundsKept := by
  unfold Obligations.GainBoundsKept
  intro s t hs h
  exact step_keeps (fun _ _ _ _ _ hs => hs) (fun _ _ _ => exec_gainInBounds) hs h

/-! ## Delivery of a confirmation (R368) -/

section

variable {s : State} {p : Pending}

/-- Stage 1 written out: the controller's run (R244), the record, the empty slot. -/
theorem deliver_eq (c : Cfg) (s : State) (p : Pending) : s.deliver c p = { s with
    imp := if p.code = .success ∧ p.adapt = true then (s.runGain c p).imp else s.imp
    hostOut := s.hostOut ++ [.confirm p.code p.t p.rms]
    tx := { s.tx with
      pend := none
      step := if s.tx.step = .cancelled then .idle else s.tx.step } } := by
  unfold State.deliver State.adaptGain
  split <;> rfl

theorem deliverConfirm_of_pend (c : Cfg) (h : s.tx.pend = some p) :
    s.deliverConfirm c = s.deliver c p := by
  simp only [State.deliverConfirm, h]

/-- After stage 1 the other stages run as in a PROCESS on the state it leaves, whose own stage 1
has no work. -/
theorem processWord_eq_of_pend (c : Cfg) (init : s.glob.initialised = true)
    (h : s.tx.pend = some p) : s.processWord c = (s.deliver c p).processWord c := by
  have empty : (s.deliver c p).tx.pend = none := by rw [deliver_eq]
  have stages : s.processStages c = (s.deliver c p).processStages c := by
    rw [State.processStages, State.processStages, deliverConfirm_of_pend c h,
      deliverConfirm_of_pend_none c empty]
  rw [processWord_of_initialised c init,
    processWord_of_initialised c (by rw [deliver_eq]; exact init), stages]

end

/-- Settles O51: PROCESS is PROCESS on what stage 1 leaves, and that is written out. -/
theorem processDelivers : Obligations.ProcessDelivers := by
  unfold Obligations.ProcessDelivers
  intro s p init pend
  rw [exec_process, processWord_eq_of_pend Config.cfg init pend, deliver_eq]
  rfl

end Sys2Proof.Machine
end

section
/-! PROOF. TX_SYMBOL (R262, R264, R265, R272 to R275): the state that names a symbol, and what the
event does to a frame on the air, by the symbol it is at and the symbol that comes next. -/

namespace Sys2Proof.Machine

/-! ## Symbols -/

/-- The first symbol of a block is PAY(k, 1) (R273). -/
theorem TxSym.firstOfBlock_eq_some_iff {x : TxSym} {k : Nat} :
    x.firstOfBlock = some k ↔ x = .pay k 1 := by
  cases x <;> simp [TxSym.firstOfBlock, and_comm]

theorem TxSym.firstOfBlock_eq_none_iff {x : TxSym} :
    x.firstOfBlock = none ↔ ∀ k, x ≠ .pay k 1 := by
  simp only [Option.eq_none_iff_forall_ne_some, ne_eq, TxSym.firstOfBlock_eq_some_iff]

/-- The state of the j-th payload symbol of a block: First before Last before the middle (R262). -/
theorem stepOfSym_pay (flb k j : Nat) : stepOfSym flb (.pay k j) =
    if j = 1 then .payloadFirst else if j = flb then .payloadLast else .payload := rfl

/-- Settles O40: each symbol's state is a branch of `stepOfSym`. -/
theorem symbolStates : Obligations.SymbolStates := by
  unfold Obligations.SymbolStates
  intro flb k j
  refine ⟨rfl, rfl, rfl, fun later => ?header, rfl, rfl, rfl, fun long => ?last,
    fun after before => ?middle, rfl⟩
  case header => exact if_neg (by omega)
  case last => rw [stepOfSym_pay, if_neg (by omega), if_pos rfl]
  case middle => rw [stepOfSym_pay, if_neg (by omega), if_neg (by omega)]

section

variable {s : State} {x : TxSym}

/-- A preamble or header symbol carries the notch while there is one (R161, R264). -/
theorem notchFor_of_carriesNotch (h : x.carriesNotch = true) :
    s.notchFor x = if s.noise.notchActive then some s.noise.notchCarrier else none := by
  simp [State.notchFor, h]

theorem notchFor_of_not_carriesNotch (h : x.carriesNotch = false) : s.notchFor x = none := by
  simp [State.notchFor, h]

end

/-! ## The event -/

section

variable {s : State} {t : TxControl} {cur nxt : TxSym} {txok : Bool}

theorem txSymbol_of_busy (busy : s.tx.step.busy = true) (ctl : s.tx.ctl = some t) :
    s.txSymbol txok = s.consumeSymbol t txok := by
  simp only [State.txSymbol, busy, ctl, if_true]

/-- R275. -/
theorem txSymbol_of_not_busy (h : s.tx.step = .idle ∨ s.tx.step = .cancelled) :
    s.txSymbol txok = s := by
  have quiet : s.tx.step.busy = false := by obtain e | e := h <;> rw [e] <;> rfl
  simp [State.txSymbol, quiet]

/-- R272. -/
theorem consumeSymbol_of_end (last : t.seq[t.pos]? = some .fin) :
    s.consumeSymbol t txok = s.completeFrame t := by
  simp only [State.consumeSymbol, last]

/-- R265. -/
theorem consumeSymbol_of_next (at_ : t.seq[t.pos]? = some cur) (more : cur ≠ .fin)
    (next : t.seq[t.pos + 1]? = some nxt) :
    s.consumeSymbol t txok = s.advanceFrame t nxt txok := by
  cases cur with
  | fin => exact absurd rfl more
  | pre | hdr | sync | pay => simp only [State.consumeSymbol, at_, next]

/-- No block is loaded inside a block or outside the payload. -/
theorem advanceFrame_of_inner (inner : nxt.firstOfBlock = none) :
    s.advanceFrame t nxt txok = s.enterSymbol t nxt := by
  simp only [State.advanceFrame, inner]

/-- R273. -/
theorem advanceFrame_of_block_ready (k : Nat) :
    s.advanceFrame t (.pay k 1) true = (s.loadBlock t k).enterSymbol t (.pay k 1) := rfl

/-- R274. -/
theorem advanceFrame_of_block_not_ready (k : Nat) :
    s.advanceFrame t (.pay k 1) false = s.chainFailure := rfl

/-- Only block 1 finds a chain to reset (R273). -/
theorem loadBlock_eq (k : Nat) : s.loadBlock t k = { s with
    feOut := s.feOut ++ (if k = 1 then [.txChainReset] else []) ++
      [.txBlock k (t.blks.getD k []) t.parity] } := by
  unfold State.loadBlock
  split
  · rfl
  · rw [List.append_nil]
    rfl

end

/-- The word TX_SYMBOL (R130, R407). -/
theorem exec_txSymbol (txok rxok : Bool) {s : State} (init : s.glob.initialised = true)
    (irq : s.irqPending = 0#9) :
    exec (.evIrq 0x004#9 txok rxok) s = .next ((s.withResult 0#32).txSymbol txok) :=
  exec_evIrq_single .txSymbol txok rxok init irq

/-- Settles O39: a frame that is not at END advances, and the next symbol says how. -/
theorem txSymbolAdvances : Obligations.TxSymbolAdvances := by
  unfold Obligations.TxSymbolAdvances
  intro s t cur nxt rxok init irq idle cancelled ctl at_ more next
  have busy : s.tx.step.busy = true := (TxStep.busy_iff _).mpr ⟨idle, cancelled⟩
  have event (txok : Bool) : exec (.evIrq 0x004#9 txok rxok) s =
      .next ((s.withResult 0#32).advanceFrame t nxt txok) := by
    rw [exec_txSymbol txok rxok init irq, txSymbol_of_busy (s := s.withResult 0#32) busy ctl,
      consumeSymbol_of_next at_ more next]
  refine ⟨fun inner txok => ?inner, ?block⟩
  case inner =>
    rw [event, advanceFrame_of_inner (TxSym.firstOfBlock_eq_none_iff.mpr inner),
      State.enterSymbol, State.emitTxCfg]
    cases nxt with
    | pre | hdr => rw [notchFor_of_carriesNotch rfl]; rfl
    | sync | pay | fin => rw [notchFor_of_not_carriesNotch rfl]; rfl
  case block =>
    rintro k rfl
    refine ⟨?ready, ?notReady⟩
    case ready =>
      rw [event, advanceFrame_of_block_ready, loadBlock_eq, State.enterSymbol, State.emitTxCfg,
        notchFor_of_not_carriesNotch rfl, State.emitFe]
      simp only [List.append_assoc]
      rfl
    case notReady =>
      rw [event, advanceFrame_of_block_not_ready]
      rfl

/-- Settles O41: at END the frame completes, and without a frame on the air nothing happens. -/
theorem txFrameEnds : Obligations.TxFrameEnds := by
  unfold Obligations.TxFrameEnds
  intro s txok rxok init irq
  refine ⟨fun t idle cancelled ctl last => ?_, fun quiet => ?_⟩
  · have busy : s.tx.step.busy = true := (TxStep.busy_iff _).mpr ⟨idle, cancelled⟩
    rw [exec_txSymbol txok rxok init irq, txSymbol_of_busy (s := s.withResult 0#32) busy ctl,
      consumeSymbol_of_end last]
    rfl
  · rw [exec_txSymbol txok rxok init irq, txSymbol_of_not_busy (s := s.withResult 0#32) quiet]

end Sys2Proof.Machine
end

section
/-! PROOF. The watchdogs (R280, R327): stage 4 of PROCESS where the stages before it have no work. -/

namespace Sys2Proof.Machine

section

variable {s : State}

/-- No capture starts while a frame is on the air (R211). -/
theorem noiseTrigger_of_busy (busy : s.tx.step.busy = true) : s.noiseTrigger = s :=
  if_neg fun ⟨_, idle, _⟩ => ((TxStep.busy_iff _).mp busy).1 ((s.txIdle_iff.mp idle).1)

/-- A reception under way has no deferred work (R367). -/
theorem rxDeferred_of_receiving (c : Cfg) (h : s.rx.step.receiving = true) :
    s.rxDeferred c = s := by
  obtain ⟨-, waiting, aborted⟩ := (RxStep.receiving_iff _).mp h
  unfold State.rxDeferred
  split
  case h_9 e => exact absurd e waiting
  case h_10 e => exact absurd e aborted
  all_goals rfl

theorem txWatchdogDue_of_late {t : TxControl} (busy : s.tx.step.busy = true)
    (ctl : s.tx.ctl = some t) (late : 1000 ≤ (s.glob.timeMs - t.start).toInt) :
    s.txWatchdogDue = true := by
  simp only [State.txWatchdogDue, busy, ctl, Bool.true_and, decide_eq_true_eq]
  exact late

theorem rxWatchdogDue_of_late {r : RxControl} (receiving : s.rx.step.receiving = true)
    (ctl : s.rx.ctl = some r) (late : 1000 ≤ (s.glob.timeMs - r.start).toInt) :
    s.rxWatchdogDue = true := by
  simp only [State.rxWatchdogDue, receiving, ctl, Bool.true_and, decide_eq_true_eq]
  exact late

/-- R280: counted reinitialisation, TX_TIMEOUT one more, and the record. -/
theorem fireTxWatchdog_eq (c : Cfg) (s : State) : s.fireTxWatchdog c =
    { s.freshPhy c with
      stats := (s.stats.set 10 (s.stats[10] + 1#32)).set 1 (s.stats[1] + 1#32)
      hostOut := s.hostOut ++ [.confirm .timeout s.glob.timeMs 0#32] } := by
  simp [State.fireTxWatchdog, State.reinit_eq, State.bump, State.emitHost, Stat.index]

/-- R327: RX_TIMEOUT one more and counted reinitialisation. -/
theorem fireRxWatchdog_eq (c : Cfg) (s : State) : s.fireRxWatchdog c =
    { s.freshPhy c with
      stats := (s.stats.set 8 (s.stats[8] + 1#32)).set 10 (s.stats[10] + 1#32) } := by
  simp [State.fireRxWatchdog, State.reinit_eq, State.bump, Stat.index]

/-- The TX watchdog goes first (R367). -/
theorem watchdogs_of_tx_due (c : Cfg) (due : s.txWatchdogDue = true) :
    s.watchdogs c = s.fireTxWatchdog c := if_pos due

theorem watchdogs_of_rx_due (c : Cfg) (busy : s.tx.step.busy = false)
    (due : s.rxWatchdogDue = true) : s.watchdogs c = s.fireRxWatchdog c := by
  simp [State.watchdogs, txWatchdogDue_of_not_busy busy, due]

/-- PROCESS where only stage 4 has work, and leaves the receiver idle (R369). -/
theorem processWord_eq_watchdogs (c : Cfg) (init : s.glob.initialised = true)
    (pend : s.tx.pend = none) (rx : s.rxDeferred c = s) (noise : s.noiseTrigger = s)
    (reset : (s.watchdogs c).rx = .reset) :
    s.processWord c = (s.watchdogs c).setResult .success := by
  have result : (s.watchdogs c).processResult = .success := by
    rw [State.processResult, reset]
    exact if_neg nofun
  rw [processWord_of_initialised c init, processStages_of_pend_none c pend, rx, noise, result]

end

/-- Settles O53: stages 1 to 3 find no work, and stage 4 fires the watchdog that is due. -/
theorem watchdogsFire : Obligations.WatchdogsFire := by
  unfold Obligations.WatchdogsFire
  intro s init pend
  refine ⟨fun t busy ctl rx late => ?tx, fun r receiving ctl quiet late => ?rx⟩
  case tx =>
    have fires := (watchdogs_of_tx_due Config.cfg (txWatchdogDue_of_late busy ctl late)).trans
      (fireTxWatchdog_eq ..)
    rw [exec_process, processWord_eq_watchdogs _ init pend (rxDeferred_of_idle _ rx)
      (noiseTrigger_of_busy busy) (by rw [fires]; rfl), fires]
    rfl
  case rx =>
    have fires := (watchdogs_of_rx_due Config.cfg quiet
      (rxWatchdogDue_of_late receiving ctl late)).trans (fireRxWatchdog_eq ..)
    have notIdle := ((RxStep.receiving_iff _).mp receiving).1
    rw [exec_process, processWord_eq_watchdogs _ init pend (rxDeferred_of_receiving _ receiving)
      (noiseTrigger_of_rx_ne_idle notIdle) (by rw [fires]; rfl), fires]
    rfl

end Sys2Proof.Machine
end

section
/-! PROOF. A whole frame (R282): the sequence of an accepted frame, what holds of a frame on the air
after some TX_SYMBOL events, kept by each event up to END, and the event that completes it. -/

namespace Sys2Proof.Machine

/-! ## Acceptance (R352, R354) -/

theorem ResultCode.code_eq_one_iff (r : ResultCode) : r.code = 1#32 ↔ r = .process := by
  cases r <;> decide

section

variable {c : Cfg} {q : TxRequest} {s : State}

/-- The checks of R352 reject with codes of their own. -/
theorem frameCheck_ne_process : s.frameCheck c q ≠ some .process := by
  have data : s.dataCheck c q ≠ some .process := by
    unfold State.dataCheck
    repeat' split
    all_goals nofun
  unfold State.frameCheck
  split
  next x e =>
    rintro ⟨⟩
    split at e
    · cases e
    · exact data e
  · split <;> nofun

/-- RESULT is PROCESS when the frame goes on the air, and only then. -/
theorem transmitWord_of_result_process (h : (s.transmitWord c q).win.result = 1#32) :
    s.glob.initialised = true ∧ s.txIdle = true ∧ s.transmitWord c q = s.acceptFrame c q := by
  unfold State.transmitWord at h ⊢
  split at h
  · cases h
  next init =>
  split at h
  · cases h
  next rx =>
  split at h
  · cases h
  next idle =>
  split at h
  next x rejected =>
    rw [(ResultCode.code_eq_one_iff x).mp h] at rejected
    exact absurd rejected frameCheck_ne_process
  next accepted =>
    refine ⟨Bool.not_eq_false _ |>.mp init, Bool.not_eq_false _ |>.mp idle, ?_⟩
    rw [if_neg init, if_neg rx, if_neg idle]

end

/-! ## The sequence of a frame (R261) -/

/-- `n` symbols before END, none of which is END. -/
abbrev EndsAfter (n : Nat) (seq : List TxSym) : Prop :=
  ∃ body, seq = body ++ [.fin] ∧ body.length = n ∧ .fin ∉ body

section

variable {n : Nat} {seq : List TxSym} (h : EndsAfter n seq)
include h

theorem EndsAfter.getElem?_end : seq[n]? = some .fin := by
  obtain ⟨body, rfl, rfl, -⟩ := h
  simp

/-- A symbol before END is another one, and one comes after it. -/
theorem EndsAfter.getElem?_before {k : Nat} (before : k < n) :
    ∃ cur nxt, seq[k]? = some cur ∧ cur ≠ .fin ∧ seq[k + 1]? = some nxt := by
  obtain ⟨body, rfl, rfl, noEnd⟩ := h
  have inside : k + 1 < (body ++ [TxSym.fin]).length := by simpa using before
  refine ⟨body[k], _, ?_, fun e => noEnd (e ▸ List.getElem_mem before),
    List.getElem?_eq_getElem inside⟩
  rw [List.getElem?_append_left before, List.getElem?_eq_getElem before]

end

@[simp] theorem length_numbered (n : Nat) (f : Nat → TxSym) : (numbered n f).length = n := by
  simp [numbered]

theorem fin_notMem_numbered {n : Nat} {f : Nat → TxSym} (h : ∀ j, f j ≠ .fin) :
    .fin ∉ numbered n f := by
  simp [numbered, h]

@[simp] theorem length_leadSymbols (b : Band) : (leadSymbols b).length = 2 + Config.nfch b := by
  rw [leadSymbols, List.length_append, length_numbered]
  rfl

theorem fin_notMem_leadSymbols (b : Band) : .fin ∉ leadSymbols b := by
  simp [leadSymbols, fin_notMem_numbered]

theorem length_syncSymbols (sch : Scheme) :
    (syncSymbols sch).length = if sch = .coherent then 2 else 0 := by
  cases sch <;> rfl

theorem fin_notMem_syncSymbols (sch : Scheme) : .fin ∉ syncSymbols sch := by
  cases sch <;> decide

@[simp] theorem length_paySymbols (nblk flb : Nat) :
    (paySymbols nblk flb).length = nblk * flb := by
  simp [paySymbols, List.length_flatMap]

theorem fin_notMem_paySymbols (nblk flb : Nat) : .fin ∉ paySymbols nblk flb := by
  simp [paySymbols, fin_notMem_numbered]

theorem dataSequence_endsAfter (b : Band) (sch : Scheme) (nblk flb : Nat) :
    EndsAfter (2 + Config.nfch b + (if sch = .coherent then 2 else 0) + nblk * flb)
      (dataSequence b sch nblk flb) :=
  ⟨_, rfl, by simp [length_syncSymbols, Nat.add_assoc],
    by simp [fin_notMem_leadSymbols, fin_notMem_syncSymbols, fin_notMem_paySymbols]⟩

theorem controlSequence_endsAfter (b : Band) :
    EndsAfter (2 + Config.nfch b) (controlSequence b) :=
  ⟨_, rfl, length_leadSymbols b, fin_notMem_leadSymbols b⟩

/-- The symbols of an accepted frame before END (R282). -/
theorem frameControl_endsAfter (c : Cfg) (q : TxRequest) (s : State) :
    EndsAfter
      (2 + Config.nfch s.glob.band +
        (if q.dt.isControl = false ∧ q.sch = .coherent then 2 else 0) +
        (if q.dt.isControl then 0 else (s.txFrameLength c q).fl))
      (s.frameControl c q).seq := by
  cases control : q.dt.isControl with
  | true =>
    simp only [State.frameControl, control, if_true]
    exact controlSequence_endsAfter _
  | false =>
    have fl : (s.txFrameLength c q).fl =
        (s.txFrameLength c q).blocks.length * (s.txFrameLength c q).flb := Nat.mul_comm _ _
    simp only [State.frameControl, control, Bool.false_eq_true, if_false, true_and, fl]
    exact dataSequence_endsAfter ..

theorem frameControl_noadapt (c : Cfg) (q : TxRequest) (s : State) :
    (s.frameControl c q).noadapt = q.noadapt := by
  unfold State.frameControl
  split <;> rfl

theorem frameControl_pwr (c : Cfg) (q : TxRequest) (s : State) :
    (s.frameControl c q).pwr = q.pwr := by
  unfold State.frameControl
  split <;> rfl

theorem frameControl_pos (c : Cfg) (q : TxRequest) (s : State) :
    (s.frameControl c q).pos = 0 := by
  unfold State.frameControl
  split <;> rfl

/-! ## A frame on the air -/

/-- `u` is the state that the frame `f`, accepted in `t`, has reached after `k` TX_SYMBOL events:
it is on the air at symbol k, and the events have left no confirmation, count or host record. -/
structure FrameAfter (t : State) (f : TxControl) (k : Nat) (u : State) : Prop where
  glob : u.glob = t.glob
  feRms : u.win.feRms = t.win.feRms
  pending : u.irqPending = t.irqPending
  stats : u.stats = t.stats
  hostOut : u.hostOut = t.hostOut
  busy : u.tx.step.busy = true
  slot : u.tx.pend = none
  ctl : u.tx.ctl = some { f with pos := k }

/-- An accepted frame has made no event yet. -/
theorem frameAfter_accept (c : Cfg) (q : TxRequest) {s : State} (idle : s.txIdle = true) :
    FrameAfter (s.acceptFrame c q) (s.frameControl c q) 0 (s.acceptFrame c q) := by
  refine ⟨rfl, rfl, rfl, rfl, rfl, ?_, ?_, ?_⟩ <;> rw [acceptFrame_tx]
  · rfl
  · exact (s.txIdle_iff.mp idle).2
  · rw [← frameControl_pos c q s]

/-- With a ready chain the next symbol is entered, whatever it is. -/
theorem advanceFrame_ready (t : TxControl) (nxt : TxSym) (s : State) :
    ∃ fe, s.advanceFrame t nxt true =
      State.enterSymbol t nxt { s with feOut := s.feOut ++ fe } := by
  cases h : nxt.firstOfBlock with
  | none => exact ⟨[], by rw [advanceFrame_of_inner h, List.append_nil]⟩
  | some k =>
    obtain rfl := TxSym.firstOfBlock_eq_some_iff.mp h
    exact ⟨_, by rw [advanceFrame_of_block_ready, loadBlock_eq, List.append_assoc]⟩

section

variable {t u : State} {f : TxControl} {k : Nat}

theorem FrameAfter.withResult (h : FrameAfter t f k u) (v : Word) :
    FrameAfter t f k (u.withResult v) :=
  ⟨h.glob, h.feRms, h.pending, h.stats, h.hostOut, h.busy, h.slot, h.ctl⟩

/-- A symbol that is not END leads to the next one. -/
theorem FrameAfter.advance {cur nxt : TxSym} (h : FrameAfter t f k u)
    (at_ : f.seq[k]? = some cur) (more : cur ≠ .fin) (next : f.seq[k + 1]? = some nxt) :
    FrameAfter t f (k + 1) (u.txSymbol true) := by
  obtain ⟨glob, feRms, pending, stats, hostOut, busy, slot, ctl⟩ := h
  obtain ⟨fe, e⟩ := advanceFrame_ready { f with pos := k } nxt u
  rw [txSymbol_of_busy busy ctl,
    consumeSymbol_of_next (t := { f with pos := k }) at_ more next, e]
  exact ⟨glob, feRms, pending, stats, hostOut, stepOfSym_busy f.flb nxt, slot, rfl⟩

/-- END completes the frame (R272). -/
theorem FrameAfter.complete (h : FrameAfter t f k u) (last : f.seq[k]? = some .fin) :
    (u.txSymbol true).tx =
        { step := .idle
          ctl := none
          pend := some
            { code := .success, t := t.glob.timeMs, rms := t.win.feRms, adapt := !f.noadapt,
              pwr := f.pwr } } ∧
      (u.txSymbol true).stats = t.stats.set 0 (t.stats[0] + 1#32) ∧
      (u.txSymbol true).hostOut = t.hostOut := by
  rw [txSymbol_of_busy h.busy h.ctl, consumeSymbol_of_end (t := { f with pos := k }) last,
    ← h.glob, ← h.feRms, ← h.stats, ← h.hostOut]
  exact ⟨rfl, rfl, rfl⟩

/-! ## The run -/

variable (init : t.glob.initialised = true) (irqs : t.irqPending = 0#9)
include init irqs

/-- The word TX_SYMBOL at a state that the frame has reached. -/
theorem FrameAfter.exec_txSymbol (h : FrameAfter t f k u) :
    exec (irq .txSymbol) u = .next ((u.withResult 0#32).txSymbol true) :=
  exec_evIrq_single .txSymbol true true (by rw [h.glob, init]) (by rw [h.pending, irqs])

/-- Up to END the frame is on the air. -/
theorem frameRun_under_way (start : FrameAfter t f 0 t) {n : Nat} (ends : EndsAfter n f.seq)
    (more : k ≤ n) :
    ∃ u, execAll (List.replicate k (irq .txSymbol)) t = .next u ∧ FrameAfter t f k u := by
  induction k with
  | zero => exact ⟨t, rfl, start⟩
  | succ k ih =>
    obtain ⟨u, run, reached⟩ := ih (by omega)
    obtain ⟨cur, nxt, at_, notEnd, next⟩ := ends.getElem?_before more
    rw [List.replicate_succ']
    exact ⟨_, execAll_concat run (reached.exec_txSymbol init irqs),
      (reached.withResult 0#32).advance at_ notEnd next⟩

end

/-- Settles O43: the run to END, and the event that completes the frame. -/
theorem frameRunsToConfirmation : Obligations.FrameRunsToConfirmation := by
  unfold Obligations.FrameRunsToConfirmation
  intro mod sch dt pwr noadapt imm len s t irqs word process npc fl sync n
  let q : TxRequest :=
    { mod := mod, sch := sch, dt := dt, pwr := pwr, noadapt := noadapt, imm := imm, len := len }
  obtain rfl : s.transmitWord Config.cfg q = t := Host.Outcome.next.inj word
  obtain ⟨init, idle, accepted⟩ := transmitWord_of_result_process process
  obtain ⟨_, _, frame⟩ := acceptFrame_eq Config.cfg q s
  rw [accepted]
  have start := frameAfter_accept Config.cfg q idle
  have ends := frameControl_endsAfter Config.cfg q s
  have initT : (s.acceptFrame Config.cfg q).glob.initialised = true := by rw [frame]; exact init
  have irqsT : (s.acceptFrame Config.cfg q).irqPending = 0#9 := by rw [frame]; exact irqs
  refine ⟨fun k more => ?_, ?_⟩
  · obtain ⟨u, run, reached⟩ := frameRun_under_way initT irqsT start ends (Nat.le_of_lt_succ more)
    exact ⟨u, run, reached.busy, reached.slot, reached.hostOut⟩
  · obtain ⟨u, run, reached⟩ := frameRun_under_way initT irqsT start ends le_rfl
    have last := execAll_concat run (reached.exec_txSymbol initT irqsT)
    have done := (reached.withResult 0#32).complete ends.getElem?_end
    rw [frameControl_noadapt, frameControl_pwr] at done
    rw [← List.replicate_succ'] at last
    exact ⟨_, last, done⟩

end Sys2Proof.Machine
end

section
/-! PROOF. The chunks of a block (R322): each chunk's bounds, what it leaves to come, and the
schedule they make. -/

namespace Sys2Proof.Machine

section

variable {B R : Nat}

theorem chunkOf_of_le (h : R ≤ B) : chunkOf B R = R := if_pos h

theorem chunkOf_of_short (above : B < R) (short : R ≤ B + 2) : chunkOf B R = R - 3 := by
  rw [chunkOf, if_neg (by omega), if_pos short]

theorem chunkOf_of_long (long : B + 2 < R) : chunkOf B R = B := by
  rw [chunkOf, if_neg (by omega), if_neg (by omega)]

variable (hB : 3 ≤ B)
include hB

theorem chunkOf_bounds (hR : 1 ≤ R) : 1 ≤ chunkOf B R ∧ chunkOf B R ≤ B ∧ chunkOf B R ≤ R := by
  unfold chunkOf
  split_ifs <;> omega

/-- Where one chunk does not suffice, at least 3 symbols are left to come: what the case R - 3 of
R322 is for. -/
theorem three_le_sub_chunkOf (h : B < R) : 3 ≤ R - chunkOf B R := by
  unfold chunkOf
  split_ifs <;> omega

end

theorem chunkSchedule_zero (B fuel : Nat) : chunkSchedule B fuel 0 = [] := by
  cases fuel <;> rfl

theorem chunkSchedule_of_pos (B fuel : Nat) {n : Nat} (hn : 1 ≤ n) :
    chunkSchedule B (fuel + 1) n =
      chunkOf B n :: chunkSchedule B fuel (n - chunkOf B n) := by
  obtain ⟨m, rfl⟩ := Nat.exists_eq_add_of_le' hn
  rfl

section

variable {B : Nat} (hB : 3 ≤ B)
include hB

theorem chunkSchedule_sum {fuel n : Nat} (hf : n ≤ fuel) : (chunkSchedule B fuel n).sum = n := by
  induction fuel generalizing n with
  | zero => exact (Nat.le_zero.mp hf).symm
  | succ fuel ih =>
    obtain rfl | hn := Nat.eq_zero_or_pos n
    · rfl
    · obtain ⟨pos, -, le⟩ := chunkOf_bounds hB hn
      rw [chunkSchedule_of_pos B fuel hn, List.sum_cons, ih (by omega)]
      omega

theorem chunkSchedule_bounds {fuel n : Nat} : ∀ k ∈ chunkSchedule B fuel n, 1 ≤ k ∧ k ≤ B := by
  induction fuel generalizing n with
  | zero => nofun
  | succ fuel ih =>
    obtain rfl | hn := Nat.eq_zero_or_pos n
    · nofun
    · obtain ⟨pos, le, -⟩ := chunkOf_bounds hB hn
      rw [chunkSchedule_of_pos B fuel hn]
      exact List.forall_mem_cons.mpr ⟨⟨pos, le⟩, ih⟩

/-- The schedule of at least 3 symbols ends in a chunk of at least 3: every chunk but the final one
leaves at least 3 to come. -/
theorem three_le_last_chunk {fuel n : Nat} (hf : n ≤ fuel) (hn : 3 ≤ n) :
    ∃ l ∈ (chunkSchedule B fuel n).getLast?, 3 ≤ l := by
  induction fuel generalizing n with
  | zero => omega
  | succ fuel ih =>
    rw [chunkSchedule_of_pos B fuel (by omega)]
    obtain final | more := le_or_gt n B
    · rw [chunkOf_of_le final, Nat.sub_self, chunkSchedule_zero]
      exact ⟨n, rfl, hn⟩
    · obtain ⟨pos, -, -⟩ := chunkOf_bounds hB (show 1 ≤ n by omega)
      obtain ⟨l, last, hl⟩ := ih (by omega) (three_le_sub_chunkOf hB more)
      exact ⟨l, List.mem_getLast?_cons last, hl⟩

end

/-- Settles O48: each chunk is in bounds and leaves 0 or at least 3 symbols. -/
theorem chunkSchedule_spec : Obligations.ChunkSchedule := by
  unfold Obligations.ChunkSchedule
  intro B hB
  refine ⟨fun R _ => ⟨chunkOf_of_le, chunkOf_of_short, chunkOf_of_long⟩,
    fun n _ => ⟨chunkSchedule_sum hB le_rfl, chunkSchedule_bounds hB, fun long => ?_⟩⟩
  exact three_le_last_chunk hB le_rfl (by omega)

end Sys2Proof.Machine
end

section
/-! PROOF. The events of a reception (45_rx_fsm.md): what RX_SYNC, RX_NOPEAK2, RX_BUF and RX_ABORT
do in each RX state, the header that RX_BUF decodes in HeaderDemod, and the receptions that PROCESS
ends without decoding. -/

namespace Sys2Proof.Machine

/-! ## RX states -/

/-- The receiving states after the sync (R304). -/
theorem RxStep.synced_iff (t : RxStep) : t.receiving = true ∧ t ≠ .peak1 ↔
    t ∈ [.peak2, .headerDemod, .cohS1, .cohS2, .payloadFirst, .payloadDemod] := by
  cases t <;> decide

theorem RxStep.not_receiving_iff (t : RxStep) :
    t.receiving = false ↔ t ∈ [.idle, .waitReedSolomon, .aborted] := by
  cases t <;> decide

/-! ## The handlers -/

section

variable {s : State} {r : RxControl}

/-- R303. -/
theorem rxSync_of_peak1 (step : s.rx.step = .peak1) (ctl : s.rx.ctl = some r) :
    s.rxSync = (s.rxEnter .peak2 { r with rxTime := s.glob.timeMs }).emitFe
      (.rxCapture (.preamble 1)) := by
  simp only [State.rxSync, State.rxSyncPeak1, step, ctl]

/-- R304. -/
theorem rxSync_of_synced (synced : s.rx.step.receiving = true ∧ s.rx.step ≠ .peak1) :
    s.rxSync = s.rxAbortAction := by
  obtain ⟨receiving, later⟩ := synced
  cases step : s.rx.step with
  | idle | waitReedSolomon | aborted => rw [step] at receiving; cases receiving
  | peak1 => exact absurd step later
  | _ => simp only [State.rxSync, step]

theorem rxSync_of_not_receiving (quiet : s.rx.step.receiving = false) : s.rxSync = s := by
  cases step : s.rx.step with
  | idle | waitReedSolomon | aborted => simp only [State.rxSync, step]
  | _ => rw [step] at quiet; cases quiet

/-- R305. -/
theorem rxNoPeak2_of_peak1 (step : s.rx.step = .peak1) :
    s.rxNoPeak2 = s.rxIdle.bump .rxNoPeak2 := by
  simp only [State.rxNoPeak2, step]

/-- The two sync events differ in Peak1 only (R304, R306). -/
theorem rxNoPeak2_eq_rxSync (later : s.rx.step ≠ .peak1) : s.rxNoPeak2 = s.rxSync := by
  cases step : s.rx.step with
  | peak1 => exact absurd step later
  | _ => simp only [State.rxNoPeak2, State.rxSync, step]

/-- R306. -/
theorem rxNoPeak2_of_synced (synced : s.rx.step.receiving = true ∧ s.rx.step ≠ .peak1) :
    s.rxNoPeak2 = s.rxAbortAction :=
  (rxNoPeak2_eq_rxSync synced.2).trans (rxSync_of_synced synced)

theorem rxNoPeak2_of_not_receiving (quiet : s.rx.step.receiving = false) : s.rxNoPeak2 = s := by
  refine (rxNoPeak2_eq_rxSync fun peak1 => ?_).trans (rxSync_of_not_receiving quiet)
  rw [peak1] at quiet
  cases quiet

/-- R320. -/
theorem rxAbort_of_receiving (receiving : s.rx.step.receiving = true) :
    s.rxAbort = s.rxAbortAction := if_pos receiving

theorem rxAbort_of_not_receiving (quiet : s.rx.step.receiving = false) : s.rxAbort = s :=
  if_neg (Bool.not_eq_true _ |>.mpr quiet)

/-- With the chain ready, RX_BUF is for the state's own use of the buffer. -/
theorem rxBuf_of_ready (c : Cfg) (receiving : s.rx.step.receiving = true)
    (ctl : s.rx.ctl = some r) : s.rxBuf c true = s.rxBuffer c r := by
  simp only [State.rxBuf, receiving, ctl, if_true]

/-- R307. -/
theorem rxBuf_of_chain_error (c : Cfg) (receiving : s.rx.step.receiving = true) :
    s.rxBuf c false = s.rxToAborted .chainErr := if_pos receiving

theorem rxBuf_of_not_receiving (c : Cfg) (rxok : Bool) (quiet : s.rx.step.receiving = false) :
    s.rxBuf c rxok = s :=
  if_neg (Bool.not_eq_true _ |>.mpr quiet)

/-- The record stays with an aborted reception (R320). -/
theorem rxToAborted_of_ctl (why : Stat) (ctl : s.rx.ctl = some r) :
    s.rxToAborted why = (s.rxEnter .aborted r).bump why := by
  simp only [State.rxToAborted, State.rxEnter, ctl]

end

/-! ### RX_BUF by state -/

section

variable (c : Cfg) {s : State} {r : RxControl} (ctl : s.rx.ctl = some r)
include ctl

/-- R308. -/
theorem rxBuf_of_peak1 (step : s.rx.step = .peak1) : s.rxBuf c true = s.rxAbortAction := by
  rw [rxBuf_of_ready c (by rw [step]; rfl) ctl, State.rxBuffer, step]

/-- R309. -/
theorem rxBuf_of_peak2 (step : s.rx.step = .peak2) : s.rxBuf c true =
    (s.rxEnter .headerDemod r).emitFe (.rxCapture (.header (Config.nfch s.glob.band))) := by
  rw [rxBuf_of_ready c (by rw [step]; rfl) ctl, State.rxBuffer, step]

/-- R310. -/
theorem rxBuf_of_headerDemod (step : s.rx.step = .headerDemod) :
    s.rxBuf c true = s.rxHeader c r := by
  rw [rxBuf_of_ready c (by rw [step]; rfl) ctl, State.rxBuffer, step]

/-- R314. -/
theorem rxBuf_of_cohS1 (step : s.rx.step = .cohS1) :
    s.rxBuf c true = (s.rxEnter .cohS2 r).emitFe (.rxCapture (.sync 2)) := by
  rw [rxBuf_of_ready c (by rw [step]; rfl) ctl, State.rxBuffer, step]

/-- R315. -/
theorem rxBuf_of_cohS2 (step : s.rx.step = .cohS2) : s.rxBuf c true = s.startBlock c r 0 := by
  rw [rxBuf_of_ready c (by rw [step]; rfl) ctl, State.rxBuffer, step]

end

/-! ## The words -/

section

variable (txok rxok : Bool) {s : State} (init : s.glob.initialised = true)
  (irq : s.irqPending = 0#9)
include init irq

theorem exec_rxSync :
    exec (.evIrq 0x008#9 txok rxok) s = .next (s.withResult 0#32).rxSync :=
  exec_evIrq_single .rxSync txok rxok init irq

theorem exec_rxNoPeak2 :
    exec (.evIrq 0x010#9 txok rxok) s = .next (s.withResult 0#32).rxNoPeak2 :=
  exec_evIrq_single .rxNoPeak2 txok rxok init irq

theorem exec_rxBuf :
    exec (.evIrq 0x020#9 txok rxok) s = .next ((s.withResult 0#32).rxBuf Config.cfg rxok) :=
  exec_evIrq_single .rxBuf txok rxok init irq

theorem exec_rxAbort :
    exec (.evIrq 0x040#9 txok rxok) s = .next (s.withResult 0#32).rxAbort :=
  exec_evIrq_single .rxAbort txok rxok init irq

end

/-- Settles O44: each event's handler in the state it advances. -/
theorem rxAdvances : Obligations.RxAdvances := by
  unfold Obligations.RxAdvances
  intro s r txok rxok init irq ctl
  refine ⟨fun step => ?sync, fun step => ?noPeak2, fun step => ?header, fun step => ?sync2,
    fun step => ?block, fun receiving => ?chainError⟩
  case sync =>
    rw [exec_rxSync txok rxok init irq, rxSync_of_peak1 (s := s.withResult 0#32) step ctl]
    rfl
  case noPeak2 =>
    rw [exec_rxNoPeak2 txok rxok init irq, rxNoPeak2_of_peak1 (s := s.withResult 0#32) step]
    rfl
  case header =>
    rw [exec_rxBuf txok true init irq, rxBuf_of_peak2 _ (s := s.withResult 0#32) ctl step]
    rfl
  case sync2 =>
    rw [exec_rxBuf txok true init irq, rxBuf_of_cohS1 _ (s := s.withResult 0#32) ctl step]
    rfl
  case block =>
    rw [exec_rxBuf txok true init irq, rxBuf_of_cohS2 _ (s := s.withResult 0#32) ctl step]
    rfl
  case chainError =>
    rw [exec_rxBuf txok false init irq,
      rxBuf_of_chain_error _ (s := s.withResult 0#32) receiving,
      rxToAborted_of_ctl (s := s.withResult 0#32) _ ctl]
    rfl

/-- Settles O45: a race is the abort action, and without a reception no handler does anything. -/
theorem rxRaces : Obligations.RxRaces := by
  unfold Obligations.RxRaces
  intro s txok rxok init irq aborted
  have abortAction : (s.withResult 0#32).rxAbortAction = aborted := rfl
  refine ⟨fun later => ?synced, fun step record => ?early, fun receiving => ?abort,
    fun idle => ?ignored⟩
  case synced =>
    have synced := (RxStep.synced_iff _).mpr later
    refine ⟨?_, ?_⟩
    · rw [exec_rxSync txok rxok init irq, rxSync_of_synced (s := s.withResult 0#32) synced,
        abortAction]
    · rw [exec_rxNoPeak2 txok rxok init irq, rxNoPeak2_of_synced (s := s.withResult 0#32) synced,
        abortAction]
  case early =>
    obtain ⟨r, ctl⟩ := Option.ne_none_iff_exists'.mp record
    rw [exec_rxBuf txok true init irq, rxBuf_of_peak1 _ (s := s.withResult 0#32) ctl step,
      abortAction]
  case abort =>
    rw [exec_rxAbort txok rxok init irq, rxAbort_of_receiving (s := s.withResult 0#32) receiving,
      abortAction]
  case ignored =>
    have quiet : (s.withResult 0#32).rx.step.receiving = false :=
      (RxStep.not_receiving_iff _).mpr idle
    refine ⟨?_, ?_, ?_, ?_⟩
    · rw [exec_rxSync txok rxok init irq, rxSync_of_not_receiving quiet]
    · rw [exec_rxNoPeak2 txok rxok init irq, rxNoPeak2_of_not_receiving quiet]
    · rw [exec_rxBuf txok rxok init irq, rxBuf_of_not_receiving _ _ quiet]
    · rw [exec_rxAbort txok rxok init irq, rxAbort_of_not_receiving quiet]

/-! ## The header (R310-R313) -/

section

variable {c : Cfg} {r : RxControl} {s : State}

/-- R311. -/
theorem rxHeader_of_bad
    (bad : decodeFch c s.glob.band (s.rxcap (Config.fchLen s.glob.band)) s.glob.staticNotch =
      none) :
    s.rxHeader c r = s.rxIdle.bump .rxBadCrc := by
  simp only [State.rxHeader, bad]

/-- R312. -/
theorem rxHeader_of_control {dt : Delimiter} {pdc : BitVec 8} {m : Modulation} {sch : Scheme}
    (header : decodeFch c s.glob.band (s.rxcap (Config.fchLen s.glob.band)) s.glob.staticNotch =
      some (.control dt pdc m sch)) :
    s.rxHeader c r = s.rxControlHeader { r with evmHdr := s.win.feEvmHdr }
      (s.rxcap (Config.fchLen s.glob.band)) m sch := by
  simp only [State.rxHeader, header]

/-- R313. -/
theorem rxHeader_of_data {dt : Delimiter} {pdc : BitVec 8} {m : Modulation} {sch : Scheme}
    {tm : ToneMap} {fl flb npc : Nat} {blen : List Nat}
    (header : decodeFch c s.glob.band (s.rxcap (Config.fchLen s.glob.band)) s.glob.staticNotch =
      some (.data dt pdc m sch tm fl flb blen npc)) :
    s.rxHeader c r =
      s.rxDataHeader c { r with evmHdr := s.win.feEvmHdr } m sch tm fl flb blen := by
  simp only [State.rxHeader, header]

end

/-- Settles O46: the header's three outcomes, and a data header's two schemes. -/
theorem rxHeader : Obligations.RxHeader := by
  unfold Obligations.RxHeader
  refine ⟨fun s txok => exec_evIrq .., fun c s r txok init irq step ctl => ?_⟩
  intro raw result header
  have event : result = (s.withResult 0#32).rxHeader c r :=
    (irqWord_single c txok true .rxBuf init irq).trans
      (rxBuf_of_headerDemod c (s := s.withResult 0#32) ctl step)
  refine ⟨fun bad => ?bad, fun dt pdc m sch control => ?control,
    fun dt pdc m sch tm fl flb blen npc data => ?data⟩
  case bad => exact event.trans (rxHeader_of_bad (s := s.withResult 0#32) bad)
  case control => exact event.trans (rxHeader_of_control (s := s.withResult 0#32) control)
  case data =>
    have filled := event.trans (rxHeader_of_data (s := s.withResult 0#32) data)
    intro fields
    refine ⟨?coherent, ?differential⟩
    all_goals
      rintro rfl
      exact filled

/-! ## PROCESS without decoding (R321, R326) -/

section

variable {s : State} (c : Cfg)

/-- R321. -/
theorem rxDeferred_of_aborted (step : s.rx.step = .aborted) : s.rxDeferred c = s.rxIdle := by
  simp only [State.rxDeferred, step]

/-- R326. -/
theorem rxDeferred_of_waiting_control {r : RxControl} (step : s.rx.step = .waitReedSolomon)
    (ctl : s.rx.ctl = some r) (ack : r.ack = true) :
    s.rxDeferred c = s.deliverInd (controlIndication s.glob.band r) := by
  simp only [State.rxDeferred, State.rxWait, step, ctl, ack, if_true]

end

/-- Settles O50: stage 2 leaves the receiver idle, so PROCESS is PROCESS on what it leaves; the
length of an ACK/NACK header is the band's (Table 00-1). -/
theorem rxCompletes : Obligations.RxCompletes := by
  unfold Obligations.RxCompletes
  intro s init pend
  refine ⟨fun step => ?aborted, fun r step ctl ack => ?control⟩
  case aborted =>
    have stage := rxDeferred_of_aborted Config.cfg step
    rw [exec_process, processWord_eq_of_rxDeferred_idle _ init pend (by rw [stage]; rfl), stage]
    rfl
  case control =>
    have stage := rxDeferred_of_waiting_control Config.cfg step ctl ack
    rw [exec_process, processWord_eq_of_rxDeferred_idle _ init pend (by rw [stage]; rfl), stage]
    cases s.glob.band <;> rfl

end Sys2Proof.Machine
end

section
/-! PROOF. Frames that TRANSMIT puts on the air (R354): the whole next state of an accepted frame,
the record of a data frame (R261, R188, R197), and the FCH of an ACK or NACK frame (R192). -/

namespace Sys2Proof.Machine

/-! ## Acceptance -/

section

variable (c : Cfg) {q : TxRequest} {s : State}

/-- What is on the air once a frame of a TX-idle block is accepted: a running capture is aborted
first, and FE_TX_START comes before the configuration of PRE(1) (R354, R226, R263, R264). -/
theorem acceptFrame_of_idle (idle : s.txIdle = true) : s.acceptFrame c q =
    { s.withResult 1#32 with
      noise := if s.noise.step = .idle then s.noise else { s.noise with step := .idle, k := 0#8 }
      tx := { step := .preambleFirst, pend := none, ctl := some (s.frameControl c q) }
      feOut := s.feOut ++ (if s.noise.step = .idle then [] else [.captureAbort]) ++
        [.txStart (s.txStartRecord q (s.frameControl c q)),
          .txCfg (.pre 1)
            (if s.noise.notchActive = true then some s.noise.notchCarrier else none)] } := by
  have slot := (s.txIdle_iff.mp idle).2
  have carries : (TxSym.pre 1).carriesNotch = true := rfl
  simp only [State.acceptFrame, abortCapture_eq, State.emitTxCfg, notchFor_of_carriesNotch carries,
    State.emitFe, State.setResult, List.append_assoc, slot]
  by_cases quiet : s.noise.step = .idle <;> simp only [quiet, if_true, if_false] <;> rfl

/-- The start time is late only when it is looked at (R355). -/
theorem lateStart_eq_false (h : q.imm = true ∨ 0 ≤ (s.win.txTime - s.glob.timeMs).toInt) :
    s.lateStart q = false := by
  rw [← Bool.not_eq_true, s.lateStart_iff]
  rintro ⟨scheduled, past⟩
  obtain now | future := h
  · simp [now] at scheduled
  · omega

/-- The frames that pass the checks of R352. -/
theorem frameCheck_eq_none (onTime : s.lateStart q = false)
    (h : q.dt.isControl = true ∨ s.dataCheck c q = none) : s.frameCheck c q = none := by
  obtain control | passed := h
  · simp [State.frameCheck, control, onTime]
  · simp [State.frameCheck, passed, onTime]

theorem transmitWord_of_accepted (init : s.glob.initialised = true) (rx : s.rx.step = .idle)
    (idle : s.txIdle = true) (h : s.frameCheck c q = none) :
    s.transmitWord c q = s.acceptFrame c q := by
  simp [State.transmitWord, init, rx, idle, h]

end

/-! ## The record of a data frame -/

/-- A frame of this length is sent in two RS blocks (R188). -/
abbrev TwoBlocks (b : Band) (m : Modulation) (len : Nat) : Prop :=
  Config.twoBlk b = true ∧ 255 - Config.parity m < len

/-- R188. -/
theorem blockSplit_eq (b : Band) (m : Modulation) (len : Nat) : blockSplit b m len =
    if TwoBlocks b m len then [(len + 1) / 2, len / 2] else [len] := rfl

/-- RSB is set for two blocks (R180). -/
theorem length_blockSplit_eq_two_iff (b : Band) (m : Modulation) (len : Nat) :
    (blockSplit b m len).length = 2 ↔ TwoBlocks b m len := by
  rw [blockSplit_eq]
  split
  case isTrue two => exact iff_of_true rfl two
  case isFalse one => exact iff_of_false nofun one

theorem syncSymbols_eq (sch : Scheme) :
    syncSymbols sch = if sch = .coherent then [.sync 1, .sync 2] else [] := by
  cases sch <;> rfl

/-- The symbols of a data frame: those of block 1 follow those of block 0 (R261). -/
theorem dataSequence_blockSplit (b : Band) (m : Modulation) (sch : Scheme) (len flb : Nat) :
    dataSequence b sch (blockSplit b m len).length flb =
      leadSymbols b ++ (if sch = .coherent then [.sync 1, .sync 2] else []) ++
        numbered flb (.pay 0) ++ (if TwoBlocks b m len then numbered flb (.pay 1) else []) ++
        [.fin] := by
  rw [dataSequence, syncSymbols_eq]
  by_cases two : TwoBlocks b m len
  · rw [blockSplit_eq, if_pos two, if_pos two]
    simp [paySymbols, List.range_succ]
  · rw [blockSplit_eq, if_neg two, if_neg two]
    simp [paySymbols]

theorem padBlock_txbuf (lb i n : Nat) (s : State) :
    padBlock lb (s.txbuf i n) =
      s.mem.readBytes (0x100 + i) n ++ List.replicate (lb - n) 0#8 := by
  simp [padBlock, State.txbuf, Memory.readBytes, txbufBase]

/-- The blocks of a data frame, cut from TXBUF one after the other (R197). -/
theorem paddedBlocks_frameLength (b : Band) (m : Modulation) (len npc : Nat) (s : State) :
    let f := frameLength b len m npc
    s.paddedBlocks f =
      if TwoBlocks b m len then
        [padBlock f.lb (s.txbuf 0 ((len + 1) / 2)),
          padBlock f.lb (s.txbuf ((len + 1) / 2) (len / 2))]
      else [padBlock f.lb (s.txbuf 0 len)] := by
  intro f
  have blocks : f.blocks = _ := blockSplit_eq b m len
  by_cases two : TwoBlocks b m len
  · rw [if_pos two] at blocks ⊢
    simp only [State.paddedBlocks, blocks]
  · rw [if_neg two] at blocks ⊢
    simp only [State.paddedBlocks, blocks]

/-- The record of a data frame, its FCH, symbols and blocks by the number of blocks. -/
theorem dataControl_eq (c : Cfg) (q : TxRequest) (s : State) :
    let b := s.glob.band
    let f := s.txFrameLength c q
    let padded := fun at_ n =>
      s.mem.readBytes (0x100 + at_) n ++ List.replicate (f.lb - n) 0#8
    s.dataControl c q =
      { s.dataControl c q with
        fch := encodeData b
          { pdc := s.win.txPdc, mod := q.mod, sch := q.sch, dt := q.dt, tm := s.win.txTonemap,
            fl := f.fl, rsb := decide (TwoBlocks b q.mod q.len.toNat) }
        seq :=
          leadSymbols b ++ (if q.sch = .coherent then [.sync 1, .sync 2] else []) ++
            numbered f.flb (.pay 0) ++
            (if TwoBlocks b q.mod q.len.toNat then numbered f.flb (.pay 1) else []) ++ [.fin]
        blks :=
          if TwoBlocks b q.mod q.len.toNat then
            [padded 0 ((q.len.toNat + 1) / 2), padded ((q.len.toNat + 1) / 2) (q.len.toNat / 2)]
          else [padded 0 q.len.toNat] } := by
  intro b f padded
  have rsb : decide (f.blocks.length = 2) = decide (TwoBlocks b q.mod q.len.toNat) :=
    decide_eq_decide.mpr (length_blockSplit_eq_two_iff ..)
  have seq : dataSequence b q.sch f.blocks.length f.flb = _ := dataSequence_blockSplit ..
  have blks : s.paddedBlocks f = _ := paddedBlocks_frameLength ..
  simp only [padBlock_txbuf] at blks
  simp only [State.dataControl]
  rw [rsb, seq, blks]
  rfl

/-- Settles O28: the frame passes the checks, and its record is the one of R354. -/
theorem dataFrameAccepted : Obligations.DataFrameAccepted := by
  unfold Obligations.DataFrameAccepted
  intro mod sch dt pwr noadapt imm len s init rx tx pend data b npc f positive legal toneMap
    carriers short onTime two half padded fch
  have idle : s.txIdle = true := s.txIdle_iff.mpr ⟨tx, pend⟩
  let q : TxRequest := ⟨mod, sch, dt, pwr, noadapt, imm, len⟩
  have noControl : q.dt.isControl = false := by obtain rfl | rfl := data <;> rfl
  have passed : s.dataCheck Config.cfg q = none :=
    (State.dataCheck_of_toneMap Config.cfg ⟨positive, legal⟩ toneMap).trans
      ((if_neg carriers).trans (if_neg (Nat.not_lt.mpr short)))
  have accepted := transmitWord_of_accepted Config.cfg init rx idle
    (frameCheck_eq_none Config.cfg (q := q) (lateStart_eq_false onTime) (.inr passed))
  have record : s.frameControl Config.cfg q = s.dataControl Config.cfg q := by
    simp [State.frameControl, noControl]
  rw [exec_transmit, accepted, acceptFrame_of_idle Config.cfg idle, record, dataControl_eq]
  simp only [State.txStartRecord, noControl]
  rfl

/-! ## The FCH of a control frame -/

section

variable {b : Band} {raw : List Byte} (len : raw.length = Config.fchLen b)
include len

/-- Recomputing the CRC and clearing the tail leaves the protected span to the caller (R192). -/
theorem recordBit_encodeAck {p : Nat} (hp : p < (fchFormat b).prot) :
    recordBit (encodeAck b raw) p = recordBit raw p := by
  obtain ⟨string, length⟩ := encodeAck_bits len
  obtain ⟨endCrc, endTail⟩ := fchFormat_spans b
  have bits : (bitsOfBytes raw).length = 8 * Config.fchLen b := by rw [length_bitsOfBytes, len]
  have inside : p < 8 * Config.fchLen b := by omega
  have kept : (bitsOfBytes (encodeAck b raw))[p]? = (bitsOfBytes raw)[p]? := by
    rw [string, getElem?_putBits (tail_inside len), if_neg (by omega), putCrc,
      getElem?_putBits (crc_inside bits), if_neg (by omega)]
  rw [getElem?_bitsOfBytes, getElem?_bitsOfBytes, length, len, if_pos inside, if_pos inside] at kept
  exact Option.some.inj kept

theorem recordField_encodeAck {q w : Nat} (inside : q + w ≤ (fchFormat b).prot) :
    recordField (encodeAck b raw) q w = recordField raw q w := by
  rw [recordField, recordField]
  congr 1
  refine List.map_congr_left fun i hi => ?_
  have := List.mem_range.mp hi
  rw [recordBit_encodeAck len (by omega)]

theorem recordNames_encodeAck {m : Modulation} {dt : Delimiter} {sch : Scheme}
    (names : RecordNames b raw m dt sch) : RecordNames b (encodeAck b raw) m dt sch := by
  obtain ⟨mod, delimiter, scheme⟩ := names
  refine ⟨?_, ?_, ?_⟩
  · rw [recordField_encodeAck len (by cases b <;> decide), mod]
  · rw [recordField_encodeAck len (by cases b <;> decide), delimiter]
  · rw [recordField_encodeAck len (by cases b <;> decide), scheme]

end

/-- PDC is the first byte of a record (R173, R174). -/
theorem recordField_pdc (raw : List Byte) : recordField raw 0 8 = (raw.getD 0 0#8).toNat := by
  have byte : (List.range 8).map (fun i => recordBit raw (0 + i)) =
      bitsOfNat 8 (raw.getD 0 0#8).toNat := by
    refine List.map_congr_left fun i hi => ?_
    have small := List.mem_range.mp hi
    rw [recordBit, Nat.zero_add, Nat.div_eq_of_lt small, Nat.mod_eq_of_lt small]
    rfl
  rw [recordField, ← natOfBits_map_range (fun i => recordBit raw (0 + i)), byte,
    natOfBits_bitsOfNat, Nat.mod_eq_of_lt (BitVec.isLt _)]

/-- Settles O29: the sealed record still names the caller's fields, so the decoder finds a control
header; the start time is the frame's only check. -/
theorem controlFrameAccepted : Obligations.ControlFrameAccepted := by
  unfold Obligations.ControlFrameAccepted
  refine ⟨fun c b static raw len => ⟨(encodeAck_bits len).2, recordSealed_encodeAck len,
    fun p hp => ?kept, fun m dt sch control names => ?decoded⟩, ?accepted⟩
  case kept => exact recordBit_encodeAck len (by cases b <;> exact hp)
  case decoded =>
    have isControl : dt.isControl = true := by obtain rfl | rfl := control <;> rfl
    have span : 0 + 8 ≤ (fchFormat b).prot := by cases b <;> decide
    rw [decodeFch_of_sealed c static (encodeAck_bits len).2 (recordSealed_encodeAck len)
      (recordNames_encodeAck len names), if_pos isControl, recordField_encodeAck len span,
      recordField_pdc, BitVec.ofNat_toNat, BitVec.setWidth_eq]
  case accepted =>
    intro mod sch dt pwr noadapt imm len s init rx tx pend control onTime b fch
    have idle : s.txIdle = true := s.txIdle_iff.mpr ⟨tx, pend⟩
    let q : TxRequest := ⟨mod, sch, dt, pwr, noadapt, imm, len⟩
    have isControl : q.dt.isControl = true := by obtain rfl | rfl := control <;> rfl
    have accepted := transmitWord_of_accepted Config.cfg init rx idle
      (frameCheck_eq_none Config.cfg (q := q) (lateStart_eq_false onTime) (.inl isControl))
    have record : s.frameControl Config.cfg q = s.controlControl q := if_pos isControl
    rw [exec_transmit, accepted, acceptFrame_of_idle Config.cfg idle, record]
    simp only [State.txStartRecord, isControl]
    rfl

end Sys2Proof.Machine
end

section
/-! PROOF. The parameters (46_host_commands.md sections 5 and 6): the parameter an id names, the
fields of the status words, and what GET_PARAM and SET_PARAM answer for each id. -/

namespace Sys2Proof.Machine

/-! ## The parameter an id names (Table 30-3) -/

/-- The parameter exists in the band: a per-carrier one needs its carrier (R131). -/
def Param.InBand (b : Band) : Param → Prop
  | .noisePower c => c.val < Config.total b
  | .noiseDb c => c.val < Config.total b
  | _ => True

theorem Param.toNat_ofNat_id (p : Param) : (BitVec.ofNat 16 p.id).toNat = p.id := by
  rw [BitVec.toNat_ofNat]
  cases p <;> simp only [Param.id] <;> omega

theorem carrierParam_inBand {b : Band} {n : Nat} {p : Param} (h : carrierParam b n = some p) :
    p.InBand b := by
  have := total_le b
  unfold carrierParam at h
  split at h
  case isTrue power =>
    cases h
    simp only [Param.InBand, Fin.ofNat]
    omega
  case isFalse =>
    split at h
    case isTrue db =>
      cases h
      simp only [Param.InBand, Fin.ofNat]
      omega
    case isFalse => cases h

theorem carrierParam_noisePower {b : Band} {c : Fin 128} (h : c.val < Config.total b) :
    carrierParam b (0x100 + c.val) = some (.noisePower c) := by
  rw [carrierParam, if_pos (by omega), Nat.add_sub_cancel_left, Fin.ofNat_val_eq_self]

theorem carrierParam_noiseDb {b : Band} {c : Fin 128} (h : c.val < Config.total b) :
    carrierParam b (0x180 + c.val) = some (.noiseDb c) := by
  have := total_le b
  rw [carrierParam, if_neg (by omega), if_pos (by omega), Nat.add_sub_cancel_left,
    Fin.ofNat_val_eq_self]

/-- Ids past the table's single ones are those of carriers. -/
theorem paramOf_of_ge {b : Band} {id : BitVec 16} (h : 0x38 ≤ id.toNat) :
    paramOf b id = carrierParam b id.toNat := by
  unfold paramOf
  split
  case h_30 => rfl
  all_goals omega

theorem paramOf_inBand {b : Band} {id : BitVec 16} {p : Param} (h : paramOf b id = some p) :
    p.InBand b := by
  unfold paramOf at h
  split at h
  case h_30 => exact carrierParam_inBand h
  all_goals
    cases h
    trivial

/-- An id names a parameter exactly when it is that parameter's id and the band has it. -/
theorem paramOf_eq_some_iff {b : Band} {id : BitVec 16} {p : Param} :
    paramOf b id = some p ↔ id = BitVec.ofNat 16 p.id ∧ p.InBand b := by
  refine ⟨fun h => ⟨paramOf_id h, paramOf_inBand h⟩, ?_⟩
  rintro ⟨rfl, inBand⟩
  have id := p.toNat_ofNat_id
  cases p with
  | staticNotch k => match k with
    | 0 => rfl
    | 1 => rfl
    | 2 => rfl
    | 3 => rfl
  | stat i => cases i <;> rfl
  | noisePower c =>
    rw [paramOf_of_ge (by rw [id, Param.id]; omega), id]
    exact carrierParam_noisePower inBand
  | noiseDb c =>
    rw [paramOf_of_ge (by rw [id, Param.id]; omega), id]
    exact carrierParam_noiseDb inBand
  | _ => rfl

/-! ## The fields of a status word (R358) -/

/-- A number below 2^k and a field at bit k. -/
theorem ofNat_add_mul_two_pow {x k : Nat} (h : x < 2 ^ k) (y : Nat) :
    BitVec.ofNat 32 (x + y * 2 ^ k) = BitVec.ofNat 32 x ||| (BitVec.ofNat 32 y <<< k) := by
  have fields : x + y * 2 ^ k = y <<< k ||| x := by
    rw [Nat.shiftLeft_eq, Nat.mul_comm, Nat.add_comm]
    exact Nat.two_pow_add_eq_or_of_lt h y
  have shifted : BitVec.ofNat 32 (y <<< k) = BitVec.ofNat 32 y <<< k := by
    refine BitVec.eq_of_toNat_eq ?_
    simp [BitVec.toNat_shiftLeft, Nat.shiftLeft_eq]
  rw [fields, BitVec.ofNat_or, shifted, BitVec.or_comm]

theorem ofNat_bitNat (b : Bool) : BitVec.ofNat 32 (bitNat b) = if b then 1#32 else 0#32 := by
  cases b <;> rfl

theorem bitNat_le (b : Bool) : bitNat b ≤ 1 := by cases b <;> decide

theorem TxStep.code_lt (t : TxStep) : t.code < 2 ^ 4 := by cases t <;> decide
theorem RxStep.code_lt (t : RxStep) : t.code < 2 ^ 4 := by cases t <;> decide
theorem RxSub.code_lt (t : RxSub) : t.code < 2 ^ 2 := by cases t <;> decide
theorem NoiseStep.code_lt (t : NoiseStep) : t.code < 2 ^ 8 := by cases t <;> decide
theorem impCode_lt (i : ImpState) : impCode i < 2 ^ 2 := by cases i <;> decide

namespace State

variable (s : State)

theorem impedanceWord_eq : s.impedanceWord =
    BitVec.ofNat 32 (impCode s.imp.coupling) |||
      ((if s.imp.autoDetect then 1#32 else 0#32) <<< 2) ||| (s.imp.gain.setWidth 32 <<< 8) := by
  have coupling := impCode_lt s.imp.coupling
  have auto := bitNat_le s.imp.autoDetect
  rw [impedanceWord, ofNat_add_mul_two_pow (by omega), ofNat_add_mul_two_pow coupling, ofNat_bitNat,
    BitVec.ofNat_toNat]

theorem notchStateWord_eq : s.notchStateWord =
    s.noise.notchCarrier.setWidth 32 |||
      ((if s.noise.notchActive then 1#32 else 0#32) <<< 8) := by
  rw [notchStateWord, ofNat_add_mul_two_pow (BitVec.isLt _), ofNat_bitNat, BitVec.ofNat_toNat]

theorem bandWord_eq : s.bandWord =
    s.glob.band.code.setWidth 32 ||| ((if s.glob.initialised then 1#32 else 0#32) <<< 31) := by
  rw [bandWord, ofNat_add_mul_two_pow (by omega), ofNat_bitNat, BitVec.ofNat_toNat]

theorem txStateWord_eq : s.txStateWord =
    BitVec.ofNat 32 s.tx.step.code ||| ((if s.tx.pend.isSome then 1#32 else 0#32) <<< 4) := by
  rw [txStateWord, ofNat_add_mul_two_pow s.tx.step.code_lt, ofNat_bitNat]

theorem rxStateWord_eq : s.rxStateWord =
    BitVec.ofNat 32 s.rx.step.code ||| (BitVec.ofNat 32 s.rx.sub.code <<< 4) |||
      (BitVec.ofNat 32 (s.rx.ctl.elim 0 RxControl.blk) <<< 6) := by
  have step := s.rx.step.code_lt
  have sub := s.rx.sub.code_lt
  have blk : s.rx.blkShown = s.rx.ctl.elim 0 RxControl.blk := by
    cases h : s.rx.ctl <;> simp [RxMachine.blkShown, h]
  rw [rxStateWord, ofNat_add_mul_two_pow (by omega), ofNat_add_mul_two_pow step, blk]

theorem noiseStateWord_eq : s.noiseStateWord =
    BitVec.ofNat 32 s.noise.step.code ||| (s.noise.k.setWidth 32 <<< 8) := by
  rw [noiseStateWord, ofNat_add_mul_two_pow s.noise.step.code_lt, BitVec.ofNat_toNat]

end State

/-- No payload block has started before PayloadFirst, nor in an ACK/NACK reception (R358). -/
theorem blk_eq_zero_of_unstarted {s : State} (numbered : s.BlockNumbered)
    (h : s.rx.step ∈ [.idle, .peak1, .peak2, .headerDemod, .cohS1, .cohS2] ∨
      ∃ r ∈ s.rx.ctl, r.ack = true) : s.rx.ctl.elim 0 RxControl.blk = 0 := by
  cases ctl : s.rx.ctl with
  | none => rfl
  | some r =>
    obtain ⟨control, started⟩ := numbered r ctl
    obtain early | ⟨r', ctl', ack⟩ := h
    · by_contra later
      obtain ⟨-, -, payload⟩ := started later
      revert early payload
      cases s.rx.step <;> decide
    · obtain rfl : r = r' := Option.some.inj (ctl.symm.trans ctl')
      exact (control ack).2

/-! ## GET_PARAM (R357) -/

theorem exec_getParam_of_value {s : State} {v : Word} (p : Param)
    (value : s.paramValue Config.cfg p = some v) (inBand : p.InBand s.glob.band) :
    exec (.getParam (BitVec.ofNat 16 p.id)) s =
      .next { s with win := { s.win with paramData := v, result := 0#32 } } := by
  have named := paramOf_eq_some_iff.mpr ⟨rfl, inBand⟩
  rw [exec_getParam, State.getParamWord, State.readable]
  simp only [named, value]
  rfl

/-- Every other id is that of no parameter, or of the one that can only be written. -/
theorem readable_eq_none (c : Cfg) {id : BitVec 16} {s : State}
    (single : id.toNat ∉ [0x00, 0x01, 0x02, 0x03, 0x10, 0x11, 0x12, 0x13, 0x14, 0x20, 0x21, 0x22,
      0x23, 0x24, 0x25, 0x26, 0x27, 0x28, 0x29, 0x2A, 0x30, 0x31, 0x32, 0x33, 0x34, 0x35, 0x36,
      0x37])
    (power : ¬(0x100 ≤ id.toNat ∧ id.toNat < 0x100 + Config.total s.glob.band))
    (db : ¬(0x180 ≤ id.toNat ∧ id.toNat < 0x180 + Config.total s.glob.band)) :
    s.readable c id = none := by
  unfold State.readable
  split
  case h_1 => rfl
  case h_2 p named =>
    obtain ⟨rfl, inBand⟩ := paramOf_eq_some_iff.mp named
    rw [p.toNat_ofNat_id] at single power db
    cases p with
    | statsClear => rfl
    | staticNotch k =>
      simp only [Param.id, List.mem_cons, List.not_mem_nil, or_false] at single
      omega
    | stat i => cases i <;> exact absurd (by decide) single
    | noisePower i => exact absurd ⟨Nat.le_add_right .., Nat.add_lt_add_left inBand _⟩ power
    | noiseDb i => exact absurd ⟨Nat.le_add_right .., Nat.add_lt_add_left inBand _⟩ db
    | _ => exact absurd (by decide) single

/-- Settles O31: each readable id names its parameter, and the parameter's value is the fields of
R358 put together. -/
theorem getParamValues : Obligations.GetParamValues := by
  unfold Obligations.GetParamValues
  intro s got
  have value (p : Param) {v : Word} (inBand : p.InBand s.glob.band)
      (h : s.paramValue Config.cfg p = some v) : got (BitVec.ofNat 16 p.id) v :=
    exec_getParam_of_value p h inBand
  refine ⟨fun k => value (.staticNotch k) trivial rfl,
    value .legacyMode trivial (congrArg some (ofNat_bitNat _)),
    ?impedance,
    value .forceNoOutput trivial (congrArg some (ofNat_bitNat _)),
    value .noiseInterval trivial rfl, value .lastRms trivial rfl, ?stats,
    value .lastLqi trivial rfl, value .tmResponse trivial rfl,
    value .notch trivial (congrArg some s.notchStateWord_eq), ?band, ?txState, 
    (and_iff_left_of_imp fun shown numbered unstarted => ?rxUnstarted).mpr ?rxState,
    ?noiseState, value .timeMs trivial rfl, fun c inBand => ⟨value (.noisePower c) inBand rfl, ?db⟩,
    ?others⟩
  case impedance =>
    refine value .impedance trivial ((congrArg some s.impedanceWord_eq).trans ?_)
    cases s.imp.coupling <;> rfl
  case stats =>
    intro k
    obtain ⟨i, rfl⟩ : ∃ i : Stat, i.index = k := ⟨Stat.ofIndex k, Stat.index_ofIndex k⟩
    exact value (.stat i) trivial rfl
  case band =>
    refine value .band trivial ((congrArg some s.bandWord_eq).trans ?_)
    cases s.glob.band <;> rfl
  case txState =>
    refine value .txState trivial ((congrArg some s.txStateWord_eq).trans ?_)
    cases s.tx.step <;> rfl
  case rxState =>
    refine value .rxState trivial ((congrArg some s.rxStateWord_eq).trans ?_)
    cases s.rx.step <;> cases s.rx.sub <;> rfl
  case rxUnstarted =>
    rw [blk_eq_zero_of_unstarted numbered unstarted] at shown
    simpa using shown
  case noiseState =>
    refine value .noiseState trivial ((congrArg some s.noiseStateWord_eq).trans ?_)
    cases s.noise.step <;> rfl
  case db =>
    refine value (.noiseDb c) inBand ?_
    simp [State.paramValue, State.db]
  case others =>
    intro id single power db
    rw [exec_getParam, State.getParamWord, readable_eq_none Config.cfg single power db]
    rfl

/-! ## SET_PARAM (R359) -/

theorem setParamWord_ofNat_id (c : Cfg) {p : Param} {s : State} (inBand : p.InBand s.glob.band) :
    s.setParamWord c (BitVec.ofNat 16 p.id) = s.writeParam c s.win.paramData p := by
  have named := paramOf_eq_some_iff.mpr ⟨rfl, inBand⟩
  simp only [State.setParamWord, named]

/-- Every other id is that of no parameter, or of one that can only be read (R366). -/
theorem setParamWord_of_unwritable (c : Cfg) {id : BitVec 16} {s : State}
    (h : id.toNat ∉ [0x00, 0x01, 0x02, 0x03, 0x10, 0x11, 0x12, 0x13, 0x2F]) :
    s.setParamWord c id = s.withResult 7#32 := by
  unfold State.setParamWord
  split
  case h_1 => rfl
  case h_2 p named =>
    obtain ⟨rfl, -⟩ := paramOf_eq_some_iff.mp named
    rw [p.toNat_ofNat_id] at h
    cases p with
    | staticNotch k =>
      simp only [Param.id, List.mem_cons, List.not_mem_nil, or_false] at h
      omega
    | legacyMode => exact absurd (by decide) h
    | impedance => exact absurd (by decide) h
    | forceNoOutput => exact absurd (by decide) h
    | noiseInterval => exact absurd (by decide) h
    | statsClear => exact absurd (by decide) h
    | _ => rfl

/-- Settles O32: each id writes its own setting. -/
theorem setParamSettings : Obligations.SetParamSettings := by
  unfold Obligations.SetParamSettings
  intro s v
  have write (p : Param) (inBand : p.InBand s.glob.band) :
      exec (.setParam (BitVec.ofNat 16 p.id)) s = .next (s.writeParam Config.cfg v p) :=
    congrArg Host.Outcome.next (setParamWord_ofNat_id Config.cfg inBand)
  have interval : exec (.setParam 0x0013#16) s = .next (s.setNoiseInterval v) :=
    write .noiseInterval trivial
  refine ⟨write .legacyMode trivial, write .forceNoOutput trivial,
    fun zero => interval.trans (congrArg _ (if_pos zero)),
    fun nonzero => interval.trans (congrArg _ (if_neg nonzero)), write .statsClear trivial,
    fun id other => congrArg _ (setParamWord_of_unwritable Config.cfg other)⟩

/-! ### STATIC_NOTCH_Wk (R360) -/

section

variable (k : Fin 4) (v : Word) {s : State}

theorem setStaticNotch_of_rx_busy (init : s.glob.initialised = true) (rx : s.rx.step ≠ .idle) :
    s.setStaticNotch k v = s.withResult 3#32 := if_pos ⟨init, rx⟩

theorem setStaticNotch_of_tx_busy (init : s.glob.initialised = true) (rx : s.rx.step = .idle)
    (tx : s.txIdle = false) : s.setStaticNotch k v = s.withResult 2#32 := by
  simp only [State.setStaticNotch, init, rx, tx, ne_eq, not_true_eq_false, and_false, and_true,
    if_false, if_true]
  rfl

/-- The mask STATIC_NOTCH_Wk leaves, cut to the band once the block is initialised. -/
def writtenNotch (k : Fin 4) (v : Word) (s : State) : Mask :=
  if s.glob.initialised then setNotchWord s.glob.staticNotch k v &&& fullMask s.glob.band
  else setNotchWord s.glob.staticNotch k v

theorem setStaticNotch_of_allowed
    (h : s.glob.initialised = false ∨ s.rx.step = .idle ∧ s.txIdle = true) :
    s.setStaticNotch k v =
      { s.withResult 0#32 with glob := { s.glob with staticNotch := writtenNotch k v s } } := by
  have rxFree : ¬(s.glob.initialised = true ∧ s.rx.step ≠ .idle) := by
    rintro ⟨init, rx⟩
    obtain before | ⟨idle, -⟩ := h
    · simp [before] at init
    · exact rx idle
  have txFree : ¬(s.glob.initialised = true ∧ s.txIdle = false) := by
    rintro ⟨init, tx⟩
    obtain before | ⟨-, idle⟩ := h
    · simp [before] at init
    · simp [idle] at tx
  rw [State.setStaticNotch, if_neg rxFree, if_neg txFree]
  rfl

theorem writtenNotch_getLsbD {i : Nat} (hi : i < 128) : (writtenNotch k v s).getLsbD i =
    ((if i / 32 = k.val then v.getLsbD (i % 32) else s.glob.staticNotch.getLsbD i) &&
      (!s.glob.initialised || decide (i < Config.total s.glob.band))) := by
  unfold writtenNotch
  split
  case isTrue init =>
    rw [BitVec.getLsbD_and, setNotchWord_getLsbD _ _ _ hi, fullMask_getLsbD, init, Bool.not_true,
      Bool.false_or]
  case isFalse before =>
    rw [setNotchWord_getLsbD _ _ _ hi, Bool.not_eq_true _ |>.mp before, Bool.not_false,
      Bool.true_or, Bool.and_true]

end

/-- Settles O33: the refusals come before the mask is written, and its bits are those of word k. -/
theorem setStaticNotch : Obligations.SetStaticNotch := by
  unfold Obligations.SetStaticNotch
  intro k s result
  have write : result = .next (s.setStaticNotch k s.win.paramData) :=
    congrArg Host.Outcome.next (setParamWord_ofNat_id Config.cfg (p := .staticNotch k) trivial)
  refine ⟨fun init rx => ?_, fun init rx busy => ?_, fun allowed => ⟨_, ?_, fun c hc =>
    writtenNotch_getLsbD k s.win.paramData hc⟩⟩
  · rw [write, setStaticNotch_of_rx_busy _ _ init rx]
  · rw [write, setStaticNotch_of_tx_busy _ _ init rx (s.txIdle_eq_false_iff.mpr busy)]
  · rw [write, setStaticNotch_of_allowed]
    exact allowed.imp_right fun ⟨rx, tx⟩ => ⟨rx, s.txIdle_iff.mpr tx⟩

/-! ### IMPEDANCE (R362) -/

section

variable (c : Cfg) {v : Word}

/-- A reserved state code or a reserved bit makes the value invalid, whatever its gain. -/
theorem impedanceOverride_of_reserved (h : v.extractLsb' 0 2 = 3#2 ∨ v &&& 0xFFFF00F8#32 ≠ 0#32) :
    impedanceOverride c v = none := by
  unfold impedanceOverride
  split
  case h_1 => rfl
  case h_2 i named =>
    obtain code | bits := h
    · rw [code] at named
      cases named
    · exact if_pos (.inl bits)

/-- Without reserved bits only the gain is left to check. -/
theorem impedanceOverride_of_state {i : ImpState} (named : impOfCode (v.extractLsb' 0 2) = some i)
    (clear : v &&& 0xFFFF00F8#32 = 0#32) : impedanceOverride c v =
      if GainFits c i (v.extractLsb' 8 8).toNat then some i else none := by
  have noBits : ¬v &&& ~~~0x0000FF07#32 ≠ 0#32 := not_not.mpr clear
  simp only [impedanceOverride, named, noBits, false_or]
  split
  case isTrue outside => rw [if_neg (by omega)]
  case isFalse inside => rw [if_pos (by omega)]

variable {s : State} (init : s.glob.initialised = true)
include init

theorem setImpedance_of_invalid (h : impedanceOverride c v = none) :
    s.setImpedance c v = s.withResult 7#32 := by
  simp only [State.setImpedance, init, h]
  rfl

theorem setImpedance_of_busy {i : ImpState} (h : impedanceOverride c v = some i)
    (tx : s.txIdle = false) : s.setImpedance c v = s.withResult 2#32 := by
  simp only [State.setImpedance, init, h, tx]
  rfl

theorem setImpedance_of_idle {i : ImpState} (h : impedanceOverride c v = some i)
    (tx : s.txIdle = true) : s.setImpedance c v = { s.withResult 0#32 with
      imp :=
        { coupling := i, gain := v.extractLsb' 8 8, autoDetect := v.getLsbD 2,
          lastRms := s.imp.lastRms } } := by
  simp only [State.setImpedance, init, h, tx]
  rfl

end

/-- Settles O34: the value is checked before TX is looked at. -/
theorem setImpedance : Obligations.SetImpedance := by
  unfold Obligations.SetImpedance
  refine ⟨fun s => rfl, ?_⟩
  intro c s init v gain result
  have write : result = s.setImpedance c v := setParamWord_ofNat_id c (p := .impedance) trivial
  refine ⟨fun reserved => ?_, fun i code clear => ?_⟩
  · rw [write, setImpedance_of_invalid c init (impedanceOverride_of_reserved c reserved)]
  · have named : impOfCode (v.extractLsb' 0 2) = some i := by
      rw [code]
      cases i <;> rfl
    have override := impedanceOverride_of_state c named clear
    refine ⟨fun outside => ?_, fun low high busy => ?_, fun low high tx pend => ?_⟩
    · rw [write, setImpedance_of_invalid c init (override.trans (if_neg (by omega)))]
    · rw [write, setImpedance_of_busy c init (override.trans (if_pos ⟨low, high⟩))
        (s.txIdle_eq_false_iff.mpr busy)]
    · rw [write, setImpedance_of_idle c init (override.trans (if_pos ⟨low, high⟩))
        (s.txIdle_iff.mpr ⟨tx, pend⟩)]

end Sys2Proof.Machine
end

section
/-! PROOF. INIT, EV_TICK, TRANSMIT while a machine is busy, CANCEL, and what PROCESS answers
(46_host_commands.md). -/

namespace Sys2Proof.Machine

/-! ## INIT and EV_TICK (R351, R370) -/

/-- Settles O21: INIT is the reinitialisation of R412 in the band it selects, uncounted. -/
theorem initResult : Obligations.InitResult := by
  unfold Obligations.InitResult
  intro b s
  rw [exec_init, State.initWord, State.reinit_eq]
  rfl

/-- Settles O23: the word is the addition and a result. -/
theorem tickAdvancesTime : Obligations.TickAdvancesTime := by
  unfold Obligations.TickAdvancesTime
  intro delta s
  rw [exec_evTick, State.tickWord]
  rfl

/-! ## TRANSMIT while a machine is busy (R352) -/

section

variable (c : Cfg) (q : TxRequest) {s : State} (init : s.glob.initialised = true)
include init

theorem transmitWord_of_rx_busy (rx : s.rx.step ≠ .idle) :
    s.transmitWord c q = s.rejectTx .busyRx := by
  simp [State.transmitWord, init, rx]

theorem transmitWord_of_tx_busy (rx : s.rx.step = .idle) (tx : s.txIdle = false) :
    s.transmitWord c q = s.setResult .busyTx := by
  simp [State.transmitWord, init, rx, tx]

end

/-- Settles O26: RX is looked at before TX. -/
theorem transmitBusy : Obligations.TransmitBusy := by
  unfold Obligations.TransmitBusy
  intro mod sch dt pwr noadapt imm len s init
  refine ⟨fun rx => ?_, fun rx busy => ?_⟩
  · rw [exec_transmit, transmitWord_of_rx_busy _ _ init rx]
    rfl
  · rw [exec_transmit, transmitWord_of_tx_busy _ _ init rx (s.txIdle_eq_false_iff.mpr busy)]
    rfl

/-! ## CANCEL (R356) -/

section

variable {s : State} (init : s.glob.initialised = true)
include init

theorem cancelWord_of_prePayload (pre : s.tx.step.prePayload = true) :
    s.cancelWord = s.cancelFrame.setResult .success := by
  simp [State.cancelWord, init, pre]

theorem cancelWord_of_inPayload (pay : s.tx.step.inPayload = true) :
    s.cancelWord = s.setResult .busyTx := by
  have notBefore : ¬s.tx.step.prePayload = true := fun pre => by
    simp [TxStep.not_inPayload_of_prePayload pre] at pay
  simp [State.cancelWord, init, notBefore, pay]

theorem cancelWord_of_not_busy
    (quiet : s.tx.step.prePayload = false ∧ s.tx.step.inPayload = false) :
    s.cancelWord = s.setResult .success := by
  simp [State.cancelWord, init, quiet]

end

/-- Settles O30: the eleven states of TX are pre-payload, payload, or those with no frame. -/
theorem cancelWord : Obligations.CancelWord := by
  unfold Obligations.CancelWord
  intro s init
  refine ⟨fun pre => ?_, fun pay => ?_, fun quiet => ?_⟩
  · rw [exec_cancel, cancelWord_of_prePayload init ((TxStep.prePayload_iff _).mpr pre)]
    rfl
  · rw [exec_cancel, cancelWord_of_inPayload init ((TxStep.inPayload_iff _).mpr pay)]
    rfl
  · rw [exec_cancel, cancelWord_of_not_busy init ((TxStep.not_busy_iff _).mpr quiet)]
    rfl

/-! ## PROCESS (R367, R369) -/

section

variable (c : Cfg) {s : State}

/-- Stage 2 has work for a reception that waits or was aborted only (R367). -/
theorem rxDeferred_of_no_work (waiting : s.rx.step ≠ .waitReedSolomon)
    (aborted : s.rx.step ≠ .aborted) : s.rxDeferred c = s := by
  by_cases idle : s.rx.step = .idle
  · exact rxDeferred_of_idle c idle
  · exact rxDeferred_of_receiving c ((RxStep.receiving_iff _).mpr ⟨idle, waiting, aborted⟩)

theorem txWatchdogDue_of_early (h : s.tx.step.busy = true →
    ∀ t ∈ s.tx.ctl, (s.glob.timeMs - t.start).toInt < 1000) : s.txWatchdogDue = false := by
  rw [← Bool.not_eq_true, State.txWatchdogDue, Bool.and_eq_true]
  rintro ⟨busy, due⟩
  split at due
  case h_1 => cases due
  case h_2 t ctl => exact Int.not_le.mpr (h busy t ctl) (of_decide_eq_true due)

theorem rxWatchdogDue_of_early (h : s.rx.step.receiving = true →
    ∀ r ∈ s.rx.ctl, (s.glob.timeMs - r.start).toInt < 1000) : s.rxWatchdogDue = false := by
  rw [← Bool.not_eq_true, State.rxWatchdogDue, Bool.and_eq_true]
  rintro ⟨receiving, due⟩
  split at due
  case h_1 => cases due
  case h_2 r ctl => exact Int.not_le.mpr (h receiving r ctl) (of_decide_eq_true due)

theorem watchdogs_of_not_due (tx : s.txWatchdogDue = false) (rx : s.rxWatchdogDue = false) :
    s.watchdogs c = s := by
  simp [State.watchdogs, tx, rx]

@[simp] theorem noiseTrigger_tx : s.noiseTrigger.tx = s.tx := by
  obtain ⟨noise, due, fe, e⟩ := noiseTrigger_change s
  rw [e]

theorem deliverConfirm_pend : (s.deliverConfirm c).tx.pend = none := by
  obtain ⟨imp, host, tx, e⟩ := deliverConfirm_change c s
  rw [e]

/-- Stage 1 empties the slot, and no later stage fills it. -/
theorem processStages_pend : (s.processStages c).tx.pend = none := by
  obtain e | ⟨stats, host, e⟩ :=
    watchdogs_cases c ((s.deliverConfirm c).rxDeferred c).noiseTrigger
  · rw [State.processStages, e, noiseTrigger_tx, rxDeferred_tx, deliverConfirm_pend]
  · rw [State.processStages, e]

end

/-- Settles O52: each stage without work leaves the state alone; and RESULT tells of the state that
the stages leave. -/
theorem processResult : Obligations.ProcessResult := by
  unfold Obligations.ProcessResult
  refine ⟨fun s init pend waiting aborted noCapture txEarly rxEarly => ?nothingDue,
    fun s t init run => ?result⟩
  case nothingDue =>
    have capture : s.noiseTrigger = s := if_neg fun ⟨noise, idle, rx, due⟩ =>
      noCapture ⟨noise, (s.txIdle_iff.mp idle).1, rx, due⟩
    have stages : s.processStages Config.cfg = s := by
      rw [processStages_of_pend_none _ pend, rxDeferred_of_no_work _ waiting aborted, capture,
        watchdogs_of_not_due _ (txWatchdogDue_of_early txEarly) (rxWatchdogDue_of_early rxEarly)]
    rw [exec_process, processWord_of_initialised _ init, stages, State.processResult,
      if_neg waiting]
    rfl
  case result =>
    rw [exec_process, processWord_of_initialised _ init] at run
    cases run
    refine ⟨processStages_pend Config.cfg, ?_⟩
    rw [State.setResult_win, State.setResult_rx, State.processResult, apply_ite ResultCode.code]
    rfl

end Sys2Proof.Machine
end

section
/-! PROOF. The memory's canonical form (log 15) over all steps: only a data write with the right to
a buffer changes the memory, and such a write stays inside the buffers. -/

namespace Sys2Proof.Machine

/-! ## Where data writes reach the memory -/

section

variable {a : Nat}

theorem regionOf_notMem_buffers (outside : a < 0x100 ∨ 0x700 ≤ a) :
    regionOf a ∉ [.txbuf, .rxcap, .capmem] := by
  obtain low | past := outside
  · rw [regionOf_of_register low]
    unfold registerAt
    split <;> decide
  · rw [regionOf_of_past past]
    decide

/-- A data write outside the buffers is one to a register, or ignored. -/
theorem storeData_mem_of_outside (outside : a < 0x100 ∨ 0x700 ≤ a) (n : Width) (v : Word)
    (s : State) : (s.storeData a n v).mem = s.mem := by
  have notBuffer := regionOf_notMem_buffers outside
  unfold State.storeData
  split
  case h_14 row | h_15 row | h_16 row => exact absurd (by rw [row]; decide) notBuffer
  all_goals rfl

variable {n : Width} (low : 0x100 ≤ a) (high : a < 0x700) (allowed : accessStop a n = none)
include low high allowed

/-- What R86 lets through in the buffers is naturally aligned. -/
theorem aligned_of_buffer_access : a % n.bytes = 0 := by
  obtain narrow | capmem := Nat.lt_or_ge a 0x500
  · rw [accessStop_of_byte_buffer n low narrow] at allowed
    simpa using allowed
  · rw [accessStop_of_capmem n capmem high] at allowed
    obtain ⟨rfl, aligned⟩ : n = .b4 ∧ a % 4 = 0 := by simpa using allowed
    exact aligned

/-- No access that is let through in a buffer reaches past the end of the buffers. -/
theorem buffer_access_end : a + n.bytes ≤ 0x700 := by
  have sameWord := last_byte_in_word (aligned_of_buffer_access low high allowed)
  omega

end

/-! ## The canonical form -/

/-- No word changes the memory (R88). -/
theorem exec_mem {i : Instr} {s t : State} (h : exec i s = .next t) : t.mem = s.mem := by
  obtain kept | ⟨_, _, -, rfl⟩ := exec_window h
  · exact kept.mem
  · rfl

/-- The canonical form is a matter of the memory alone. -/
theorem State.MemoryInForm.of_mem_eq {s t : State} (hs : s.MemoryInForm) (same : t.mem = s.mem) :
    t.MemoryInForm := by
  rwa [State.MemoryInForm, same]

/-- Bytes stored inside the buffers keep the canonical form. -/
theorem State.MemoryInForm.writeBytes {s : State} (hs : s.MemoryInForm) {a : Nat} {bs : List Byte}
    (low : 0x100 ≤ a) (fits : a + bs.length ≤ 0x700) :
    State.MemoryInForm { s with mem := s.mem.writeBytes a bs } := by
  obtain ⟨wf, inBuffers⟩ := hs
  refine ⟨Memory.wf_writeBytes a bs wf, fun p hp => ?_⟩
  obtain ⟨from_a, before_end⟩ | old := Memory.mem_writeBytes hp
  · omega
  · exact inBuffers p old

theorem storeData_memoryInForm {s : State} (hs : s.MemoryInForm) {a : Nat} {n : Width} (v : Word)
    (allowed : accessStop a n = none) : (s.storeData a n v).MemoryInForm := by
  by_cases outside : a < 0x100 ∨ 0x700 ≤ a
  · exact hs.of_mem_eq (storeData_mem_of_outside outside n v s)
  · obtain ⟨low, high⟩ : 0x100 ≤ a ∧ a < 0x700 := by omega
    rw [storeData_of_buffer low high]
    refine hs.writeBytes low ?_
    rw [length_bytesOfWord]
    exact buffer_access_end low high allowed

/-- Settles O17: of all that a step can do, only a data write touches the memory. -/
theorem memoryFormKept : Obligations.MemoryFormKept := by
  unfold Obligations.MemoryFormKept
  intro s t hs h
  obtain ⟨-, rfl⟩ | ⟨rest, -, handed | ignored | ⟨-, a, n, v, -, allowed, stored⟩ | ⟨i, word⟩ |
    refused⟩ := step_cases h
  · exact hs
  · obtain ⟨v, rfl⟩ := handed
    exact hs
  · rw [ignored]
    exact hs
  · rw [stored]
    exact storeData_memoryInForm (s := { s with inputs := rest }) hs v allowed
  · exact State.MemoryInForm.of_mem_eq (s := { s with inputs := rest }) hs (exec_mem word)
  · rw [refused]
    exact hs

end Sys2Proof.Machine
end

section
/-! PROOF. EV_IRQ words (60_exceptions.md section 2): LINK_ERROR, which drops the other sources, and
a word of several sources as the words of each. -/

namespace Sys2Proof.Machine

/-! ## LINK_ERROR (R411, R412) -/

/-- Settles O22: LINK_ERROR is the lowest source, and its reinitialisation empties the pending
set. -/
theorem linkErrorReinitialises : Obligations.LinkErrorReinitialises := by
  unfold Obligations.LinkErrorReinitialises
  intro src txok rxok s init link
  have pending : (s.irqPending ||| src).getLsbD 0 = true := by
    rw [BitVec.getLsbD_or, link, Bool.or_true]
  rw [exec_evIrq, irqWord_of_linkError _ txok rxok init pending, State.reinit_eq]
  rfl

/-! ## A word of several sources (R407, R408) -/

/-- The states in which the words of single sources follow one another: an initialised block with
nothing pending and SUCCESS in RESULT. -/
structure State.BetweenSources (s : State) : Prop where
  init : s.glob.initialised = true
  pend : s.irqPending = 0#9
  result : s.win.result = 0#32

theorem State.BetweenSources.withResult_eq {s : State} (h : s.BetweenSources) :
    s.withResult 0#32 = s := by
  rw [← h.result]

theorem handle_betweenSources (c : Cfg) (txok rxok : Bool) {q : IrqSource} {s : State}
    (hq : q ≠ .linkError) (h : s.BetweenSources) :
    (s.handle c txok rxok q).BetweenSources := by
  obtain ⟨tx, rx, noise, stats, fe, e⟩ := handle_change c txok rxok hq s
  rw [e]
  exact ⟨h.init, h.pend, h.result⟩

section

variable (txok rxok : Bool) (p : BitVec 9) {s : State}

/-- The words of the set sources of a list, one after another, are the handlers of those sources in
the list's order. -/
theorem execAll_sources {qs : List IrqSource} (hlink : IrqSource.linkError ∉ qs)
    (h : s.BetweenSources) :
    execAll ((qs.filter fun q => p.getLsbD q.bit).map
        fun q => .evIrq (BitVec.twoPow 9 q.bit) txok rxok) s =
      .next (s.serve Config.cfg txok rxok p qs) := by
  induction qs generalizing s with
  | nil => rfl
  | cons q qs ih =>
    obtain ⟨hq, hqs⟩ := not_or.mp (mt List.mem_cons.mpr hlink)
    by_cases set : p.getLsbD q.bit = true
    · have word : exec (.evIrq (BitVec.twoPow 9 q.bit) txok rxok) s =
          .next (s.handle Config.cfg txok rxok q) := by
        rw [exec_evIrq_single q txok rxok h.init h.pend, h.withResult_eq]
      rw [List.filter_cons, if_pos set, List.map_cons, execAll, word, State.serve, if_pos set]
      exact ih hqs (handle_betweenSources _ txok rxok (Ne.symm hq) h)
    · rw [List.filter_cons, if_neg set, State.serve, if_neg set]
      exact ih hqs h

/-- A word without LINK_ERROR is the handlers of its sources in order. -/
theorem exec_evIrq_of_events (init : s.glob.initialised = true) (pend : s.irqPending = 0#9)
    (hlink : p.getLsbD 0 = false) :
    exec (.evIrq p txok rxok) s =
      .next ((s.withResult 0#32).serve Config.cfg txok rxok p eventSources) := by
  have start : (s.withResult 0#32).BetweenSources := ⟨init, pend, rfl⟩
  have done : ((s.withResult 0#32).serve Config.cfg txok rxok p eventSources).BetweenSources :=
    serve_keeps (fun _ _ => handle_betweenSources _ txok rxok) p (by decide) start
  have pending : s.irqPending ||| p = p := by rw [pend, BitVec.zero_or]
  rw [exec_evIrq, irqWord_of_events _ txok rxok init (pending.symm ▸ hlink), pending, ← done.pend]
  rfl

end

/-- The bit numbers set in a word without LINK_ERROR are those of its sources, in handling
order. -/
theorem map_filter_range_bits {α : Type} (f : Nat → α) {src : BitVec 9}
    (hlink : src.getLsbD 0 = false) :
    ((List.range 9).filter fun n => src.getLsbD n).map f =
      (eventSources.filter fun q => src.getLsbD q.bit).map (f ∘ IrqSource.bit) := by
  have range : List.range 9 = 0 :: eventSources.map IrqSource.bit := by decide
  rw [range, List.filter_cons_of_neg (by rw [hlink]; decide), List.filter_map, List.map_map]
  rfl

/-- Settles O25: both sides run the handlers of the word's sources in ascending order. -/
theorem irqWordSplits : Obligations.IrqWordSplits := by
  unfold Obligations.IrqWordSplits
  have noSources : ∀ (txok rxok : Bool) (s : State), s.glob.initialised = true →
      s.irqPending = 0#9 → exec (.evIrq 0#9 txok rxok) s = .next (s.withResult 0#32) :=
    fun txok rxok s init pend => by rw [exec_evIrq, irqWord_zero _ txok rxok init pend]
  refine ⟨noSources, fun src txok rxok s init pend hlink => ?_⟩
  have start : (s.withResult 0#32).BetweenSources := ⟨init, pend, rfl⟩
  rw [exec_evIrq_of_events txok rxok src init pend hlink, execAll, noSources txok rxok s init pend,
    map_filter_range_bits _ hlink]
  exact (execAll_sources txok rxok src (by decide) start).symm

end Sys2Proof.Machine
end

section
/-! PROOF. Power-on reset (70_reset_and_hazards.md), and the words written before the first INIT. -/

namespace Sys2Proof.Machine

/-! ## Before INIT (R350, R410) -/

section

variable (c : Cfg) {s : State} (asleep : s.glob.initialised = false)
include asleep

theorem transmitWord_of_uninitialised (q : TxRequest) :
    s.transmitWord c q = s.setResult .notInit := if_pos asleep

theorem processWord_of_uninitialised : s.processWord c = s.setResult .notInit := if_pos asleep

theorem cancelWord_of_uninitialised : s.cancelWord = s.setResult .notInit := if_pos asleep

theorem setImpedance_of_uninitialised (v : Word) :
    s.setImpedance c v = s.setResult .notInit := if_pos asleep

end

/-- Settles O24: each of these words looks at the flag first. -/
theorem wordsBeforeInit : Obligations.WordsBeforeInit := by
  unfold Obligations.WordsBeforeInit
  intro s asleep
  refine ⟨fun mod sch dt pwr noadapt imm len => ?transmit, ?process, ?cancel, ?impedance,
    fun src txok rxok => ?evIrq⟩
  case transmit =>
    rw [exec_transmit, transmitWord_of_uninitialised _ asleep]
    rfl
  case process =>
    rw [exec_process, processWord_of_uninitialised _ asleep]
    rfl
  case cancel =>
    rw [exec_cancel, cancelWord_of_uninitialised asleep]
    rfl
  case impedance =>
    have named : s.setParamWord Config.cfg 0x0011#16 = s.setImpedance Config.cfg s.win.paramData :=
      setParamWord_ofNat_id Config.cfg (p := .impedance) trivial
    rw [exec_setParam, named, setImpedance_of_uninitialised _ asleep]
    rfl
  case evIrq =>
    rw [exec_evIrq, irqWord_of_uninitialised _ src txok rxok asleep]
    rfl

/-! ## Reset (R440) -/

/-- A noise capture and its profile start from carriers that are all 0. -/
theorem NoiseUnit.reset_carriers (i : Fin 128) :
    NoiseUnit.reset.acc[i.val] = 0#32 ∧ NoiseUnit.reset.power[i.val] = 0#32 :=
  ⟨Vector.getElem_replicate .., Vector.getElem_replicate ..⟩

/-- Settles O12: the records are those of Table 70-1, an empty memory reads 0, and every carrier and
every counter is 0. -/
theorem resetState : Obligations.ResetState := by
  unfold Obligations.ResetState
  have noise : State.reset.noise.step = .idle ∧ State.reset.noise.k = 0#8 ∧
      (∀ i : Fin 128, State.reset.noise.acc[i.val] = 0#32 ∧
        State.reset.noise.power[i.val] = 0#32) ∧
      State.reset.noise.notchCarrier = 0#8 ∧ State.reset.noise.notchActive = false :=
    ⟨rfl, rfl, NoiseUnit.reset_carriers, rfl, rfl⟩
  have counters : ∀ i : Fin 11, State.reset.stats[i.val] = 0#32 :=
    fun i => Vector.getElem_replicate ..
  exact ⟨rfl, rfl, Memory.read_nil, rfl, rfl, rfl, noise, rfl, counters, rfl, rfl, rfl⟩

end Sys2Proof.Machine
end
